-- ==== Sys2Proof/Word.lean ====
section
/-! DEFINITION. The two widths of the block (R10): an 8-bit byte and a 32-bit register value. -/

namespace Sys2Proof

/-- One byte of a buffer or of the wire (R10). -/
abbrev Byte := BitVec 8

/-- One register value, chunk length or CRC (R10). -/
abbrev Word := BitVec 32

end Sys2Proof
end

