-- ==== Sys2Proof/Syntax.lean ====
section
/-! DEFINITION. The commands of the block, one constructor per row of the opcode table (R73).
No command carries an operand: every operand is implicit (R72). -/

namespace Sys2Proof

/-- The eight commands of R73, in the table's order. -/
inductive Instr where
  /-- `CT_FROM_BYTES`: load CTYPE from TYPE_IN (R109). -/
  | ctFromBytes
  /-- `CT_FROM_STRING`: load CTYPE from a window of four letters (R110). -/
  | ctFromString
  /-- `CT_FROM_CHUNK`: load CTYPE from the current chunk's type (R111). -/
  | ctFromChunk
  /-- `CHUNK_NEW`: build a chunk from CTYPE and the window (R123). -/
  | chunkNew
  /-- `CHUNK_PARSE`: parse and verify one chunk at the start of the window (R124). -/
  | chunkParse
  /-- `CHUNK_SERIALIZE`: write the current chunk's bytes to OUT (R127). -/
  | chunkSerialize
  /-- `CHUNK_UTF8`: check the current chunk's payload as UTF-8 (R132). -/
  | chunkUtf8
  /-- `CRC_COMPUTE`: the CRC-32 of the window (R94). -/
  | crcCompute
  deriving DecidableEq, Repr

end Sys2Proof
end

