-- ==== Sys2Proof/WellFormed.lean ====
section
/-! DEFINITION. What a well-formed command and a well-formed command word are (R71, R72, R74). -/

namespace Sys2Proof

/-- A command as syntax. It has no field (R72), so there is nothing that could be out of range. -/
def Instr.wellFormed : Instr → Bool
  | .ctFromBytes => true
  | .ctFromString => true
  | .ctFromChunk => true
  | .chunkNew => true
  | .chunkParse => true
  | .chunkSerialize => true
  | .chunkUtf8 => true
  | .crcCompute => true

/-- The OP values R73 assigns. -/
def assignedOps : List Byte := [0x01, 0x02, 0x03, 0x10, 0x11, 0x12, 0x13, 0x20]

/-- The RSVD field, bits 31:8, is zero (R71). -/
def rsvdClear (w : Word) : Bool := w &&& 0xFFFFFF00 == 0

/-- The OP field, bits 7:0, is one R73 assigns. -/
def opAssigned (w : Word) : Bool := assignedOps.contains (w.extractLsb' 0 8)

/-- A legal command word, by the test R74 gives. -/
def wordWellFormed (w : Word) : Bool := rsvdClear w && opAssigned w

end Sys2Proof
end

