-- ==== Sys2Proof/Decode.lean ====
section
/-! DEFINITION. The decoder of a command word, total on 32-bit words, the encoder, and the host's view of
the decoder (R70 to R77). -/

namespace Sys2Proof

/-- The OP value of each command (R73). -/
def Instr.opcode : Instr → Byte
  | .ctFromBytes => 0x01
  | .ctFromString => 0x02
  | .ctFromChunk => 0x03
  | .chunkNew => 0x10
  | .chunkParse => 0x11
  | .chunkSerialize => 0x12
  | .chunkUtf8 => 0x13
  | .crcCompute => 0x20

/-- Every command, in the order of R73. -/
def Instr.all : List Instr :=
  [.ctFromBytes, .ctFromString, .ctFromChunk, .chunkNew, .chunkParse, .chunkSerialize, .chunkUtf8,
    .crcCompute]

/-- Why a word is illegal (R75). Both kinds execute alike: `IllegalCommand`. -/
inductive DecodeError where
  /-- RSVD is not zero, whatever OP is. -/
  | reservedBitsSet
  /-- RSVD is zero and no command has this OP. -/
  | opcodeUnassigned
  deriving DecidableEq, Repr

/-- The OP field (R71). -/
def opField (w : Word) : Byte := w.extractLsb' 0 8

/-- The RSVD field (R71). -/
def rsvdField (w : Word) : BitVec 24 := w.extractLsb' 8 24

/-- The decoder (R74, R75): RSVD must be zero, then OP is looked up. -/
def decode (w : Word) : Except DecodeError Instr :=
  if rsvdField w ≠ 0 then .error .reservedBitsSet
  else match Instr.all.find? (fun i => i.opcode == opField w) with
    | some i => .ok i
    | none => .error .opcodeUnassigned

/-- The command word of a command: OP in bits 7:0, RSVD zero (R71, R73). -/
def encode (i : Instr) : Word := i.opcode.setWidth 32

/-- The host's view: the command in an instruction whose `nbits` low bits are `w`, the bits above zero.
A word that does not fit its `nbits`, or 32 bits, is no command word (R70). -/
def decodeTableWord (nbits w : Nat) : Option Instr :=
  if w < 2 ^ min nbits 32 then (decode (BitVec.ofNat 32 w)).toOption else none

end Sys2Proof
end

