-- ==== Sys2Proof/Config.lean ====
section
/-! DEFINITION. What the spec leaves to the implementation (R8, R11) and the values it leaves open
(R18, R62). All are constants without a body: nothing in Lean can evaluate one. -/

namespace Sys2Proof

/-- The range of the size parameter: `0 <= DATA_BYTES <= 2^32 - 13` (R8). -/
abbrev Config.Capacity := Fin 4294967284

/-- `DATA_BYTES` (R8), the capacity of the machine that `State.reset` describes. Open parameter, log entry 1. -/
opaque Config.dataBytes : Config.Capacity

/-- `DEVICE_BASE` (R11), the block's base in the host's address map. No rule reads it, and no definition here does. -/
opaque Config.deviceBase : Nat

/-- The byte an unspecified buffer byte reads as: number of the draw, offset in its space (R62, R158 to R160).
A free value, log entry 4. -/
opaque Config.freeByte : Nat → Nat → Byte

/-- The value an unspecified register reads as: number of the draw, register offset (R62, R155, R156).
A free value, log entry 4. -/
opaque Config.freeWord : Nat → Nat → Word

end Sys2Proof
end

