-- ==== Sys2Proof/Machine/State.lean ====
section
/-! DEFINITION. The state of the block (R17, R20, R45), plain data, and its value after reset (R48). -/

namespace Sys2Proof.Machine

/-- The four address spaces (R50). Offsets of different spaces name different things. -/
inductive Space where
  /-- `REG`: the thirteen registers. -/
  | reg
  /-- `IN`: the input bytes. -/
  | input
  /-- `DATA`: the current chunk's payload. -/
  | data
  /-- `OUT`: the last serialization. -/
  | out
  deriving DecidableEq, Repr

/-- The thirteen registers of R20, in the order of their offsets. -/
inductive Reg where
  | cmd | status | inLen | inOff | typeIn | ctype | props | chType | length | crc | consumed | outLen | crcOut
  deriving DecidableEq, Repr

/-- The error codes of R171. `invalidSignature` and `chunkNotFound` are reserved for the host's
container: the block never raises them (R7). -/
inductive ErrorCode where
  | ok | invalidChunkType | checksumMismatch | truncatedInput | invalidSignature | invalidUtf8 | chunkNotFound
  | notLoaded | illegalCommand | capacityExceeded
  deriving DecidableEq, Repr

/-- One transaction of the host (R150), as a bus carries it: `width` is the width of the access in bits,
`value` the value written, of which an 8-bit access carries the low byte. The accesses R56 refuses are
terms of this type too. -/
inductive Transaction where
  | read (space : Space) (offset width : Nat)
  | write (space : Space) (offset width : Nat) (value : Word)
  | reset
  deriving DecidableEq, Repr

/-- What the last transaction gave back to the host. -/
inductive Response where
  /-- Nothing: a write, a reset, or no transaction yet. -/
  | nothing
  /-- The value of a register read (R155). -/
  | word (v : Word)
  /-- The byte of a buffer read (R158 to R160). -/
  | byte (b : Byte)
  deriving DecidableEq, Repr

/-- STATUS by its fields (R24). The reserved bits 31:13 read as 0 and cannot be written, so they are not
stored; `Status.word` gives the register's value. -/
structure Status where
  /-- ERR, bits 7:0: the last command's error code (R25). -/
  err : Byte
  /-- TYPE_VALID, bit 8 (R26). -/
  typeValid : Bool
  /-- CHUNK_VALID, bit 9 (R27). -/
  chunkValid : Bool
  /-- OUT_VALID, bit 10 (R28). -/
  outValid : Bool
  /-- CRCOUT_VALID, bit 11 (R29). -/
  crcOutValid : Bool
  /-- CONSUMED_VALID, bit 12 (R30). -/
  consumedValid : Bool
  deriving DecidableEq, Repr

/-- One buffer: the bytes written since reset, as (offset, byte) pairs, offsets strictly rising. An
offset that is not listed has not been written and reads as any value (R48, R158), so no stored byte
equals what an unlisted offset reads as. -/
abbrev Memory := List Host.Cell

/-- The block's state (R17), and the model's own fields `pending`, `response` and `draws`. PROPS is
computed from CTYPE (R35) and CMD holds nothing (R23), so neither has a field. -/
structure State where
  /-- STATUS (R24). -/
  status : Status
  /-- IN_LEN (R31). -/
  inLen : Word
  /-- IN_OFF (R32). -/
  inOff : Word
  /-- TYPE_IN (R33). -/
  typeIn : Word
  /-- CTYPE (R34). -/
  ctype : Word
  /-- CH_TYPE (R36). -/
  chType : Word
  /-- LENGTH (R37). -/
  length : Word
  /-- CRC (R38). -/
  crc : Word
  /-- CONSUMED (R39). -/
  consumed : Word
  /-- OUT_LEN (R40). -/
  outLen : Word
  /-- CRCOUT (R41). -/
  crcOut : Word
  /-- The IN space (R52). -/
  input : Memory
  /-- The DATA space (R54). -/
  data : Memory
  /-- The OUT space (R55). -/
  out : Memory
  /-- The size parameter DATA_BYTES (R8), which the spec makes an argument of the model. No step changes
  it. Log entry 1. -/
  dataBytes : Config.Capacity
  /-- The host's transactions still to come, oldest first (R65, R78). The model's own, log entry 2. -/
  pending : List Transaction
  /-- What the last transaction gave back. The model's own, log entry 3. -/
  response : Response
  /-- How many draws have been made: the number of the next free value (R62). The model's own, log entry 4. -/
  draws : Nat
  deriving DecidableEq, Repr

/-- Why the machine stops with a fault. -/
inductive Fault where
  /-- Raised by CHUNK_SERIALIZE and CHUNK_UTF8 when CHUNK_VALID is set and LENGTH exceeds DATA_BYTES: the
  command would read DATA bytes that do not exist (R50, R54). By R37 no run reaches such a state. Safe: the
  model stops where the spec says nothing. -/
  | payloadOutsideData
  deriving DecidableEq, Repr

/-- Why a transaction has no meaning (R56, R150). -/
inductive Refusal where
  /-- Raised by the arm of a command that is not modelled; no arm does. Safe: the model stops. -/
  | notModelled (mnemonic : String)
  /-- Raised by the host interface for a REG access at an offset that holds no register (R51, R56). Safe:
  the spec gives it no meaning. -/
  | unmappedRegister (offset : Nat)
  /-- Raised by the host interface for a REG access at an offset that is no multiple of 4 (R56, R60). Safe:
  the spec gives it no meaning. -/
  | misalignedRegister (offset : Nat)
  /-- Raised by the host interface for a REG access of other than 32 bits or a buffer access of other than
  8 bits (R56). Safe: the spec gives it no meaning. -/
  | accessWidth (space : Space) (width : Nat)
  /-- Raised by the host interface for a buffer access at or past the buffer's size (R56). Safe: the spec
  gives it no meaning. -/
  | outsideBuffer (space : Space) (offset : Nat)
  /-- Raised by the host interface for a host write to DATA or OUT (R56). Safe: the spec gives it no
  meaning. -/
  | readOnlyBuffer (space : Space)
  deriving DecidableEq, Repr

/-- The outcome of a command, a transaction or a step. -/
abbrev Outcome := Host.Outcome State Fault Refusal

/-- The state after reset (R48, R190). STATUS, IN_LEN, IN_OFF and TYPE_IN are the spec's zeros; no byte of a
buffer has been written. CTYPE, CH_TYPE, LENGTH, CRC, CONSUMED, OUT_LEN and CRCOUT are unspecified: the zeros
stored here are a DESIGN CHOICE (log entry 5), which no transaction can observe, because each reads as a free
value until its presence flag is set. -/
def State.reset : State where
  status :=
    { err := 0, typeValid := false, chunkValid := false, outValid := false, crcOutValid := false,
      consumedValid := false }
  inLen := 0
  inOff := 0
  typeIn := 0
  ctype := 0
  chType := 0
  length := 0
  crc := 0
  consumed := 0
  outLen := 0
  crcOut := 0
  input := []
  data := []
  out := []
  dataBytes := Config.dataBytes
  pending := []
  response := .nothing
  draws := 0

end Sys2Proof.Machine
end

