-- ==== Sys2Proof/Machine/Flags.lean ====
section
/-! DEFINITION. The values a STATUS or PROPS read is made of: error numbers, the STATUS word, the letter
grammar and the property bits (R24, R100 to R108, R171). -/

namespace Sys2Proof.Machine

/-- The number of an error code (R171). -/
def ErrorCode.code : ErrorCode → Byte
  | .ok => 0
  | .invalidChunkType => 1
  | .checksumMismatch => 2
  | .truncatedInput => 3
  | .invalidSignature => 4
  | .invalidUtf8 => 5
  | .chunkNotFound => 6
  | .notLoaded => 7
  | .illegalCommand => 8
  | .capacityExceeded => 9

/-- A one-bit field at bit `i` of a register. -/
def flagAt (b : Bool) (i : Nat) : Word := (BitVec.ofBool b).setWidth 32 <<< i

/-- STATUS as a host reads it (R24): reserved bits 31:13 are 0 (R42). -/
def Status.word (st : Status) : Word :=
  st.err.setWidth 32 ||| flagAt st.typeValid 8 ||| flagAt st.chunkValid 9 ||| flagAt st.outValid 10 |||
    flagAt st.crcOutValid 11 ||| flagAt st.consumedValid 12

/-- The letter grammar (R100), the one predicate behind LETTERi and CT_FROM_STRING (R106). -/
def isLetter (b : Byte) : Bool :=
  (decide (0x41#8 ≤ b) && decide (b ≤ 0x5A#8)) || (decide (0x61#8 ≤ b) && decide (b ≤ 0x7A#8))

/-- Byte `i` (0 to 3) of a packed 32-bit value, byte 0 in bits 31:24 (R58). -/
def packedByte (v : Word) (i : Nat) : Byte := v.extractLsb' (24 - 8 * i) 8

/-- Bit 5 of type byte `i` (R101). -/
def propertyBit (t : Word) (i : Nat) : Bool := (packedByte t i).getLsbD 5

/-- CRITICAL (R102). -/
def critical (t : Word) : Bool := !propertyBit t 0

/-- PUBLIC (R103). -/
def isPublic (t : Word) : Bool := !propertyBit t 1

/-- RESERVED_VALID (R104): byte index 2, the third byte. -/
def reservedValid (t : Word) : Bool := !propertyBit t 2

/-- SAFE_TO_COPY (R105), the one property read with the opposite sense. -/
def safeToCopy (t : Word) : Bool := propertyBit t 3

/-- LETTERi (R106). -/
def letterAt (t : Word) (i : Nat) : Bool := isLetter (packedByte t i)

/-- VALID (R107). -/
def typeIsValid (t : Word) : Bool :=
  reservedValid t && letterAt t 0 && letterAt t 1 && letterAt t 2 && letterAt t 3

/-- The PROPS word of a type (R108). -/
def props (t : Word) : Word :=
  flagAt (critical t) 0 ||| flagAt (isPublic t) 1 ||| flagAt (reservedValid t) 2 |||
    flagAt (safeToCopy t) 3 ||| flagAt (typeIsValid t) 4 ||| flagAt (letterAt t 0) 8 |||
    flagAt (letterAt t 1) 9 ||| flagAt (letterAt t 2) 10 ||| flagAt (letterAt t 3) 11

end Sys2Proof.Machine
end

