-- ==== Sys2Proof/Machine/Ops.lean ====
section
/-! DEFINITION. The named operations over buffers and registers, and how a command ends: success, or the
one error commit (R13, R174). The block has no trap to take or return from (R170, R178). -/

namespace Sys2Proof.Machine

/-- The canonical form of a buffer: offsets strictly rising. -/
def Memory.wf : Memory → Bool
  | [] => true
  | (k, _) :: rest => rest.all (fun c => k < c.1) && Memory.wf rest

/-- Every listed offset lies below `n`, the size of the space. -/
def Memory.within (m : Memory) (n : Nat) : Bool := m.all (fun c => c.1 < n)

/-- The byte stored at an offset, or none if nothing was written there since reset. -/
def Memory.cell : Memory → Nat → Option Byte
  | [], _ => none
  | (k, b) :: rest, a => if k = a then some b else Memory.cell rest a

/-- Store one byte, keeping the canonical form. -/
def Memory.put : Memory → Nat → Byte → Memory
  | [], a, b => [(a, b)]
  | (k, c) :: rest, a, b =>
    if a < k then (a, b) :: (k, c) :: rest
    else if a = k then (a, b) :: rest
    else (k, c) :: Memory.put rest a b

/-- `MemWrite` of a byte sequence, its first byte at the lowest offset (R13). -/
def Memory.putBytes (m : Memory) (a : Nat) : List Byte → Memory
  | [] => m
  | b :: bs => Memory.putBytes (m.put a b) (a + 1) bs

/-- One byte read during draw `d`: the byte last written, or any value if none was (R158). -/
def Memory.readByte (m : Memory) (d a : Nat) : Byte := (m.cell a).getD (Config.freeByte d a)

/-- `MemRead` of `n` bytes in increasing offset order (R13), during draw `d`. -/
def Memory.readBytes (m : Memory) (d a : Nat) : Nat → List Byte
  | 0 => []
  | n + 1 => m.readByte d a :: Memory.readBytes m d (a + 1) n

/-- The `n` bytes stored from an offset, if every one of them has been written. -/
def Memory.stored (m : Memory) (a : Nat) : Nat → Option (List Byte)
  | 0 => some []
  | n + 1 =>
    match m.cell a, Memory.stored m (a + 1) n with
    | some b, some bs => some (b :: bs)
    | _, _ => none

/-- `IN_BYTES` (R9). -/
def State.inBytes (s : State) : Nat := s.dataBytes.val + 12

/-- `OUT_BYTES` (R9). -/
def State.outBytes (s : State) : Nat := s.dataBytes.val + 12

/-- The size of each space in bytes (R50). -/
def State.capacity (s : State) : Space → Nat
  | .reg => 0x40
  | .input => s.inBytes
  | .data => s.dataBytes.val
  | .out => s.outBytes

/-- The buffer behind a space. REG holds registers, no bytes. -/
def State.buffer (s : State) : Space → Memory
  | .reg => []
  | .input => s.input
  | .data => s.data
  | .out => s.out

/-- End a command with an error code: ERR is written (R25), and the next draw is a fresh one. -/
def State.settle (s : State) (e : ErrorCode) : State :=
  { s with status := { s.status with err := e.code }, draws := s.draws + 1 }

/-- `raise E(e)`: the error commit (R174). ERR is the only state of the block that changes. -/
def raise (e : ErrorCode) (s : State) : Outcome := .next (s.settle e)

/-- `ok()`: the writes made so far are committed together with ERR = 0 (R13, R14). -/
def complete (s : State) : Outcome := .next (s.settle .ok)

/-- Replace the loaded ChunkType whole (R26, R44). -/
def State.loadType (s : State) (t : Word) : State :=
  { s with ctype := t, status := { s.status with typeValid := true } }

/-- Replace the current chunk by one of type `t`, payload `d` and CRC `c` (R27, R43): OUT and CONSUMED no
longer describe the current chunk (R28, R30). DATA bytes past the payload keep their values (R49). -/
def State.installChunk (s : State) (t : Word) (d : List Byte) (c : Word) : State :=
  { s with
    chType := t
    data := s.data.putBytes 0 d
    length := BitVec.ofNat 32 d.length
    crc := c
    status := { s.status with chunkValid := true, outValid := false, consumedValid := false } }

/-- Record how many window bytes a successful parse read (R39). -/
def State.setConsumed (s : State) (n : Nat) : State :=
  { s with consumed := BitVec.ofNat 32 n, status := { s.status with consumedValid := true } }

/-- Write a serialization of `n` bytes to OUT (R40). OUT bytes past it keep their values (R49). -/
def State.emit (s : State) (bytes : List Byte) (n : Nat) : State :=
  { s with
    out := s.out.putBytes 0 bytes
    outLen := BitVec.ofNat 32 n
    status := { s.status with outValid := true } }

/-- Store a CRC_COMPUTE result (R41). -/
def State.setCrcOut (s : State) (c : Word) : State :=
  { s with crcOut := c, status := { s.status with crcOutValid := true } }

/-- The host stores IN_LEN (R153). -/
def State.setInLen (s : State) (v : Word) : State := { s with inLen := v }

/-- The host stores IN_OFF (R153). -/
def State.setInOff (s : State) (v : Word) : State := { s with inOff := v }

/-- The host stores TYPE_IN (R153). -/
def State.setTypeIn (s : State) (v : Word) : State := { s with typeIn := v }

/-- The host stores one byte of IN (R157). -/
def State.writeInput (s : State) (i : Nat) (b : Byte) : State := { s with input := s.input.put i b }

/-- Give the host a read's result; the next draw is a fresh one (R62). -/
def State.answer (s : State) (r : Response) : State := { s with response := r, draws := s.draws + 1 }

/-- Take the host's next transaction off the front: `rest` is what is still to come. -/
def State.take (s : State) (rest : List Transaction) : State :=
  { s with pending := rest, response := .nothing }

/-- A RESET transaction (R161, R190): the reset state, with the machine's size, the transactions the host has
still to issue, and the count of draws kept. -/
def State.restart (s : State) : State :=
  { State.reset with dataBytes := s.dataBytes, pending := s.pending, draws := s.draws }

end Sys2Proof.Machine
end

