-- ==== Sys2Proof/Machine/Operands.lean ====
section
/-! DEFINITION. The implicit operands of the commands (R72): the packed bytes of a 32-bit value, the input
window, the current chunk, and the registers by offset. -/

namespace Sys2Proof.Machine

/-- `be32` (R13, R57): the big-endian value of a byte sequence, four bytes wherever it is used. -/
def be32 (s : List Byte) : Word := s.foldl (fun v b => v * 256 + b.setWidth 32) 0

/-- `bytes_be32` (R13, R58): the four bytes of a value, most significant first. -/
def bytesBE32 (v : Word) : List Byte := [packedByte v 0, packedByte v 1, packedByte v 2, packedByte v 3]

/-- The window lies inside IN and is not reversed (R53). -/
def State.windowInRange (s : State) : Bool :=
  decide (s.inLen.toNat ≤ s.inBytes) && decide (s.inOff.toNat ≤ s.inLen.toNat)

/-- `N`, the number of window bytes (R53). -/
def State.windowSize (s : State) : Nat := s.inLen.toNat - s.inOff.toNat

/-- `n` window bytes from window index `i`, as the current command reads them (R53, R158). -/
def State.windowBytes (s : State) (i n : Nat) : List Byte :=
  s.input.readBytes s.draws (s.inOff.toNat + i) n

/-- `W`, the whole window (R53). -/
def State.window (s : State) : List Byte := s.windowBytes 0 s.windowSize

/-- A command that reads the window checks it first (R53, R173 item 2). -/
def withWindow (s : State) (k : Outcome) : Outcome :=
  if s.windowInRange then k else raise .capacityExceeded s

/-- The current chunk's payload DATA[0..LENGTH) (R43), as the current command reads it. -/
def State.payload (s : State) : List Byte := s.data.readBytes s.draws 0 s.length.toNat

/-- LENGTH does not exceed DATA_BYTES, as R37 says of every chunk. -/
def State.payloadInData (s : State) : Bool := decide (s.length.toNat ≤ s.dataBytes.val)

/-- A command that needs the current chunk checks that there is one (R173 item 3). -/
def withChunk (s : State) (k : Outcome) : Outcome :=
  if s.status.chunkValid then k else raise .notLoaded s

/-- A command that reads the payload reads DATA bytes 0 to LENGTH - 1, which R37 says exist. -/
def withPayload (s : State) (k : List Byte → Outcome) : Outcome :=
  if s.payloadInData then k s.payload else .fault .payloadOutsideData

/-- Every register, in the order of R20. -/
def Reg.all : List Reg :=
  [.cmd, .status, .inLen, .inOff, .typeIn, .ctype, .props, .chType, .length, .crc, .consumed, .outLen, .crcOut]

/-- The offset of a register in REG (R20). -/
def Reg.offset : Reg → Nat
  | .cmd => 0x00
  | .status => 0x04
  | .inLen => 0x08
  | .inOff => 0x0C
  | .typeIn => 0x10
  | .ctype => 0x14
  | .props => 0x18
  | .chType => 0x1C
  | .length => 0x20
  | .crc => 0x24
  | .consumed => 0x28
  | .outLen => 0x2C
  | .crcOut => 0x30

/-- The register at an offset (R51): none at 0x34, 0x38, 0x3C, past the space, or off a multiple of 4. -/
def Reg.ofOffset (off : Nat) : Option Reg := Reg.all.find? (fun r => r.offset == off)

/-- A value that exists only while its presence flag is set (R155). -/
def presentIf (flag : Bool) (v : Word) : Option Word := if flag then some v else none

/-- The defined value of a register, or none where a read returns any value (R155, R156). -/
def State.regValue (s : State) : Reg → Option Word
  | .cmd => none
  | .status => some s.status.word
  | .inLen => some s.inLen
  | .inOff => some s.inOff
  | .typeIn => some s.typeIn
  | .ctype => presentIf s.status.typeValid s.ctype
  | .props => presentIf s.status.typeValid (props s.ctype)
  | .chType => presentIf s.status.chunkValid s.chType
  | .length => presentIf s.status.chunkValid s.length
  | .crc => presentIf s.status.chunkValid s.crc
  | .consumed => presentIf s.status.consumedValid s.consumed
  | .outLen => presentIf s.status.outValid s.outLen
  | .crcOut => presentIf s.status.crcOutValid s.crcOut

/-- What a register read returns: its value, or a free one (R155, R156). -/
def State.readReg (s : State) (r : Reg) : Word := (s.regValue r).getD (Config.freeWord s.draws r.offset)

/-- The buffer bytes that have a value for the host: IN bytes once written (R158), DATA bytes of the current
chunk (R159), OUT bytes of the current serialization (R160). -/
def State.byteDefined (s : State) (sp : Space) (i : Nat) : Bool :=
  match sp with
  | .reg => false
  | .input => true
  | .data => s.status.chunkValid && decide (i < s.length.toNat)
  | .out => s.status.outValid && decide (i < s.outLen.toNat)

/-- What a buffer read returns: the byte stored, or a free one (R158, R159, R160). -/
def State.readBuffer (s : State) (sp : Space) (i : Nat) : Byte :=
  if s.byteDefined sp i then (s.buffer sp).readByte s.draws i else Config.freeByte s.draws i

end Sys2Proof.Machine
end

