-- ==== Sys2Proof/Machine/Crc.lean ====
section
/-! DEFINITION. The CRC-32 unit: the function of R90 and CRC_COMPUTE (R94). The running remainder exists only
inside one call (R96), so State has no field for it. -/

namespace Sys2Proof.Machine

/-- One bit of R90's inner loop, least significant bit first. 0xEDB88320 is the reversed IEEE polynomial. -/
def crcBit (c : Word) : Word := if c.getLsbD 0 then (c >>> 1) ^^^ 0xEDB88320 else c >>> 1

/-- R90's inner loop: eight bits. -/
def crcEightBits (c : Word) : Word := crcBit (crcBit (crcBit (crcBit (crcBit (crcBit (crcBit (crcBit c)))))))

/-- One byte of R90's outer loop. -/
def crcByte (c : Word) (b : Byte) : Word := crcEightBits (c ^^^ b.setWidth 32)

/-- The remainder after a byte sequence, from remainder `c`. -/
def crcRemainder (c : Word) (s : List Byte) : Word := s.foldl crcByte c

/-- `crc32` (R90): CRC-32/IEEE of a byte sequence. -/
def crc32 (s : List Byte) : Word := crcRemainder 0xFFFFFFFF s ^^^ 0xFFFFFFFF

/-- The CRC of a chunk: over the four type bytes and the payload, nothing else (R121). -/
def chunkCrc (t : Word) (d : List Byte) : Word := crc32 (bytesBE32 t ++ d)

/-- CRC_COMPUTE (R94). -/
def execCrcCompute (s : State) : Outcome :=
  withWindow s (complete (s.setCrcOut (crc32 s.window)))

end Sys2Proof.Machine
end

