-- ==== Sys2Proof/Machine/Chunk.lean ====
section
/-! DEFINITION. The Chunk codec: the frame, the four chunk commands and the UTF-8 check (R120 to R132). -/

namespace Sys2Proof.Machine

/-- The wire form of a chunk (R120): length, type, payload, CRC, every number big-endian. -/
def frameBytes (len t : Word) (d : List Byte) (c : Word) : List Byte :=
  bytesBE32 len ++ bytesBE32 t ++ d ++ bytesBE32 c

/-- CHUNK_NEW (R123): the checks in R173's order. The type's validity is not checked. -/
def execChunkNew (s : State) : Outcome :=
  withWindow s
    (if !s.status.typeValid then raise .notLoaded s
    else if s.dataBytes.val < s.windowSize then raise .capacityExceeded s
    else complete (s.installChunk s.ctype s.window (chunkCrc s.ctype s.window)))

/-- The length field of the chunk at the start of the window (R124, R120). -/
def State.frameLength (s : State) : Nat := (be32 (s.windowBytes 0 4)).toNat

/-- The type bytes of the chunk at the start of the window. -/
def State.frameType (s : State) : Word := be32 (s.windowBytes 4 4)

/-- The payload of the chunk at the start of the window. -/
def State.framePayload (s : State) : List Byte := s.windowBytes 8 s.frameLength

/-- The stored CRC of the chunk at the start of the window. -/
def State.frameCrc (s : State) : Word := be32 (s.windowBytes (8 + s.frameLength) 4)

/-- The CRC the verifier computes (R95): over the type bytes and the payload as read. -/
def State.frameComputedCrc (s : State) : Word := crc32 (s.windowBytes 4 4 ++ s.framePayload)

/-- CHUNK_PARSE (R124): the checks in R173's order, the type grammar not among them (R126). Bytes after the
chunk are not read (R125). -/
def execChunkParse (s : State) : Outcome :=
  withWindow s
    (if s.windowSize < 12 then raise .truncatedInput s
    else if s.dataBytes.val < s.frameLength then raise .capacityExceeded s
    else if s.windowSize < 12 + s.frameLength then raise .truncatedInput s
    else if s.frameComputedCrc ≠ s.frameCrc then raise .checksumMismatch s
    else complete
      ((s.installChunk s.frameType s.framePayload s.frameCrc).setConsumed (12 + s.frameLength)))

/-- CHUNK_SERIALIZE (R127): the CRC is emitted as stored. -/
def execChunkSerialize (s : State) : Outcome :=
  withChunk s (withPayload s fun d =>
    complete (s.emit (frameBytes s.length s.chType d s.crc) (12 + s.length.toNat)))

/-- The continuation bytes of R131's table: 0x80..0xBF. -/
def continuation : Byte × Byte := (0x80, 0xBF)

/-- A byte in a range, both ends included. -/
def inRange (r : Byte × Byte) (b : Byte) : Bool := decide (r.1 ≤ b) && decide (b ≤ r.2)

/-- R131's table, a row per first-byte range: the ranges of the bytes that must follow. -/
def utf8Table : List ((Byte × Byte) × List (Byte × Byte)) :=
  [((0x00, 0x7F), []),
    ((0xC2, 0xDF), [continuation]),
    ((0xE0, 0xE0), [(0xA0, 0xBF), continuation]),
    ((0xE1, 0xEC), [continuation, continuation]),
    ((0xED, 0xED), [(0x80, 0x9F), continuation]),
    ((0xEE, 0xEF), [continuation, continuation]),
    ((0xF0, 0xF0), [(0x90, 0xBF), continuation, continuation]),
    ((0xF1, 0xF3), [continuation, continuation, continuation]),
    ((0xF4, 0xF4), [(0x80, 0x8F), continuation, continuation])]

/-- What must follow a first byte, or none if no sequence begins with it. -/
def utf8Follow (b : Byte) : Option (List (Byte × Byte)) :=
  (utf8Table.find? (fun row => inRange row.1 b)).map Prod.snd

/-- The check, while `due` are the ranges of the bytes still due in the sequence begun. -/
def utf8From : List (Byte × Byte) → List Byte → Bool
  | [], [] => true
  | _ :: _, [] => false
  | r :: due, b :: rest => inRange r b && utf8From due rest
  | [], b :: rest =>
    match utf8Follow b with
    | some due => utf8From due rest
    | none => false

/-- `utf8_valid` (R131): a concatenation of zero or more well-formed sequences. -/
def utf8Valid (s : List Byte) : Bool := utf8From [] s

/-- CHUNK_UTF8 (R132): only ERR is written. -/
def execChunkUtf8 (s : State) : Outcome :=
  withChunk s (withPayload s fun d => if utf8Valid d then complete s else raise .invalidUtf8 s)

end Sys2Proof.Machine
end

