-- ==== Sys2Proof/Machine/ChunkType.lean ====
section
/-! DEFINITION. The ChunkType unit: the three ways to load CTYPE (R109, R110, R111). -/

namespace Sys2Proof.Machine

/-- CT_FROM_BYTES (R109): always succeeds; the letter grammar is not checked. -/
def execCtFromBytes (s : State) : Outcome := complete (s.loadType s.typeIn)

/-- CT_FROM_STRING (R110): the window must be exactly four letters; the reserved bit is not checked. -/
def execCtFromString (s : State) : Outcome :=
  withWindow s
    (if s.windowSize ≠ 4 then raise .invalidChunkType s
    else if s.window.all isLetter then complete (s.loadType (be32 s.window))
    else raise .invalidChunkType s)

/-- CT_FROM_CHUNK (R111): the chunk's type is loaded unchanged, valid or not. -/
def execCtFromChunk (s : State) : Outcome := withChunk s (complete (s.loadType s.chType))

end Sys2Proof.Machine
end

