-- ==== Sys2Proof/Machine/Dispatch.lean ====
section
/-! DEFINITION. One arm per command, each a direct call of its meaning. -/

namespace Sys2Proof.Machine

/-- What a command does (R14): one atomic step. -/
def exec (i : Instr) (s : State) : Host.Outcome State Fault Refusal :=
  match i with
  | .ctFromBytes => Sys2Proof.Machine.execCtFromBytes s
  | .ctFromString => Sys2Proof.Machine.execCtFromString s
  | .ctFromChunk => Sys2Proof.Machine.execCtFromChunk s
  | .chunkNew => Sys2Proof.Machine.execChunkNew s
  | .chunkParse => Sys2Proof.Machine.execChunkParse s
  | .chunkSerialize => Sys2Proof.Machine.execChunkSerialize s
  | .chunkUtf8 => Sys2Proof.Machine.execChunkUtf8 s
  | .crcCompute => Sys2Proof.Machine.execCrcCompute s

end Sys2Proof.Machine
end

