-- ==== Sys2Proof/Machine/HostInterface.lean ====
section
/-! DEFINITION. The host's transactions (R150 to R161), the accesses that are refused (R56), and the host
program notation (R78 to R80). -/

namespace Sys2Proof.Machine

/-- `REG_WRITE(off, v)` (R151). -/
def regWrite (off : Nat) (v : Word) : Transaction := .write .reg off 32 v

/-- `REG_READ(off)` (R155). -/
def regRead (off : Nat) : Transaction := .read .reg off 32

/-- `IN_WRITE(i, b)` (R157). -/
def inWrite (i : Nat) (b : Byte) : Transaction := .write .input i 8 (b.setWidth 32)

/-- `IN_READ(i)`, `DATA_READ(i)` or `OUT_READ(i)` (R158 to R160). -/
def byteRead (sp : Space) (i : Nat) : Transaction := .read sp i 8

/-- An illegal command word executes as `raise E(IllegalCommand)` (R75). -/
def execIllegalWord (s : State) : Outcome := raise .illegalCommand s

/-- A host write of `w` to CMD: decode and execute, to completion (R23, R152). -/
def runCommand (w : Word) (s : State) : Outcome :=
  match decode w with
  | .ok i => exec i s
  | .error _ => execIllegalWord s

/-- What a write to each register does: CMD runs a command (R152), three registers store the value (R153),
and a write to a read-only register has no effect (R154). -/
def writeReg (r : Reg) (v : Word) (s : State) : Outcome :=
  match r with
  | .cmd => runCommand v s
  | .inLen => .next (s.setInLen v)
  | .inOff => .next (s.setInOff v)
  | .typeIn => .next (s.setTypeIn v)
  | .status => .next s
  | .ctype => .next s
  | .props => .next s
  | .chType => .next s
  | .length => .next s
  | .crc => .next s
  | .consumed => .next s
  | .outLen => .next s
  | .crcOut => .next s

/-- A REG access: 32 bits wide, at a multiple of 4, at a mapped offset, or refused (R56, R60). -/
def withRegister (off width : Nat) (k : Reg → Outcome) : Outcome :=
  if width ≠ 32 then .refused (.accessWidth .reg width)
  else if off % 4 ≠ 0 then .refused (.misalignedRegister off)
  else match Reg.ofOffset off with
    | some r => k r
    | none => .refused (.unmappedRegister off)

/-- A buffer access: 8 bits wide and inside the buffer, or refused (R56). -/
def withBufferByte (s : State) (sp : Space) (i width : Nat) (k : Outcome) : Outcome :=
  if width ≠ 8 then .refused (.accessWidth sp width)
  else if s.capacity sp ≤ i then .refused (.outsideBuffer sp i)
  else k

/-- A host read. It changes no state of the block (R62). -/
def readAccess (sp : Space) (off width : Nat) (s : State) : Outcome :=
  match sp with
  | .reg => withRegister off width fun r => .next (s.answer (.word (s.readReg r)))
  | .input => withBufferByte s .input off width (.next (s.answer (.byte (s.readBuffer .input off))))
  | .data => withBufferByte s .data off width (.next (s.answer (.byte (s.readBuffer .data off))))
  | .out => withBufferByte s .out off width (.next (s.answer (.byte (s.readBuffer .out off))))

/-- A host write. DATA and OUT are read-only to the host (R54, R55, R56). -/
def writeAccess (sp : Space) (off width : Nat) (v : Word) (s : State) : Outcome :=
  match sp with
  | .reg => withRegister off width fun r => writeReg r v s
  | .input => withBufferByte s .input off width (.next (s.writeInput off (v.setWidth 8)))
  | .data => .refused (.readOnlyBuffer .data)
  | .out => .refused (.readOnlyBuffer .out)

/-- One transaction, atomic (R61, R150). -/
def transact (t : Transaction) (s : State) : Outcome :=
  match t with
  | .read sp off width => readAccess sp off width s
  | .write sp off width v => writeAccess sp off width v s
  | .reset => .next s.restart

/-- The host's next transaction, or nothing at all while the host issues none (R191). -/
def hostTurn (s : State) : Outcome :=
  match s.pending with
  | [] => .next s
  | t :: rest => transact t (s.take rest)

/-- The host's program with the command word `w` as its next transaction. -/
def State.withCommand (s : State) (w : Word) : State := { s with pending := regWrite 0x00 w :: s.pending }

/-- `wr REG, v` (R78). -/
def progWr (r : Reg) (v : Word) : List Transaction := [regWrite r.offset v]

/-- `rd REG`, and what an `expect` line issues (R78, R79). -/
def progRd (r : Reg) : List Transaction := [regRead r.offset]

/-- `cmd MNEMONIC` (R79). -/
def progCmd (i : Instr) : List Transaction := progWr .cmd (encode i)

/-- `ldb i, b0 b1 ...`; `lds` is the same over the ASCII bytes of a text (R79). -/
def progLdb (i : Nat) : List Byte → List Transaction
  | [] => []
  | b :: bs => inWrite i b :: progLdb (i + 1) bs

/-- `win a, e` (R79). -/
def progWin (a e : Word) : List Transaction := progWr .inOff a ++ progWr .inLen e

/-- `rdb SPACE[i]` to `rdb SPACE[i+n-1]`, what an `expectb` line issues (R79). -/
def progRdb (sp : Space) (i : Nat) : Nat → List Transaction
  | 0 => []
  | n + 1 => byteRead sp i :: progRdb sp (i + 1) n

/-- A transaction's encoding as the triple of R80: space, offset, and the value of a write; none for RESET. -/
def Transaction.triple : Transaction → Option (Space × Nat × Option Word)
  | .read sp off _ => some (sp, off, none)
  | .write sp off _ v => some (sp, off, some v)
  | .reset => none

/-- The command words a program issues (R80): the values written to REG offset 0x00. -/
def commandWords (p : List Transaction) : List Word :=
  p.filterMap fun t =>
    match t with
    | .write .reg 0 _ w => some w
    | _ => none

end Sys2Proof.Machine
end

