-- ==== Sys2Proof/Machine/Step.lean ====
section
/-! DEFINITION. One step of the machine: the host's next transaction (R65). -/

namespace Sys2Proof.Machine

/-- One step: the host's next transaction runs to completion (R61, R152). With no transaction to come the
block does nothing (R191). -/
def step (s : State) : Host.Outcome State Fault Refusal := hostTurn s

/-- The state whose next transaction writes to CMD the command word whose `nbits` low bits are `w`, the bits
above zero. The block fetches nothing (R22, R68): a command is what the host writes to CMD next. -/
def State.withFetchWord (s : State) (nbits w : Nat) : State :=
  s.withCommand (BitVec.ofNat 32 (w % 2 ^ nbits))

end Sys2Proof.Machine
end

