-- ==== Sys2Proof/Safety.lean ====
section
/-! DEFINITION. The terms claims about the block use: the invariant of every reachable state (R25, R28, R37, R39,
R40, R43), what a failing command leaves, and when two states look the same to the host (R155 to R160). -/

namespace Sys2Proof.Machine

/-- The codes the block ever writes to ERR: 0 to 9 less the reserved 4 and 6 (R25, R171). -/
def legalErrors : List Byte := [0, 1, 2, 3, 5, 7, 8, 9]

/-- ERR holds a code the block writes (R25). -/
def State.errLegal (s : State) : Bool := legalErrors.contains s.status.err

/-- Every buffer is in canonical form. -/
def State.buffersCanonical (s : State) : Bool := s.input.wf && s.data.wf && s.out.wf

/-- No buffer holds a byte at or past its size (R50). -/
def State.buffersInRange (s : State) : Bool :=
  s.input.within s.inBytes && s.data.within s.dataBytes.val && s.out.within s.outBytes

/-- While a chunk exists, its payload fits DATA and has been written (R37), and its CRC is right (R43). -/
def State.chunkSound (s : State) : Bool :=
  !s.status.chunkValid ||
    (s.payloadInData &&
      match s.data.stored 0 s.length.toNat with
      | some d => s.crc == crc32 (bytesBE32 s.chType ++ d)
      | none => false)

/-- While OUT_VALID is set, OUT holds the serialization of the current chunk, `12 + LENGTH` bytes (R28, R40). -/
def State.outSound (s : State) : Bool :=
  !s.status.outValid ||
    (s.status.chunkValid && s.outLen.toNat == 12 + s.length.toNat &&
      match s.data.stored 0 s.length.toNat, s.out.stored 0 s.outLen.toNat with
      | some d, some o => o == bytesBE32 s.length ++ bytesBE32 s.chType ++ d ++ bytesBE32 s.crc
      | _, _ => false)

/-- While CONSUMED_VALID is set, CONSUMED is `12 + LENGTH` of the current chunk (R24, R39). -/
def State.consumedSound (s : State) : Bool :=
  !s.status.consumedValid || (s.status.chunkValid && s.consumed.toNat == 12 + s.length.toNat)

/-- The invariant of the block: what holds in every state a run reaches. -/
structure State.Inv (s : State) : Prop where
  canonical : s.buffersCanonical = true
  inRange : s.buffersInRange = true
  errLegal : s.errLegal = true
  chunkSound : s.chunkSound = true
  outSound : s.outSound = true
  consumedSound : s.consumedSound = true

/-- The state a failing command leaves: ERR holds the code, and the block is otherwise as it was (R174). The
draw count is the model's own. -/
def State.failed (s : State) (code : Byte) : State :=
  { s with status := { s.status with err := code }, draws := s.draws + 1 }

/-- The window check of R53. -/
def State.WindowOk (s : State) : Prop :=
  s.inLen.toNat ≤ s.dataBytes.val + 12 ∧ s.inOff.toNat ≤ s.inLen.toNat

/-- The state once the host's next transaction has been taken off: `rest` is still to come. -/
def State.afterTaking (s : State) (rest : List Transaction) : State :=
  { s with pending := rest, response := .nothing }

/-- A transaction that gives the host the response `r` and changes no state of the block (R62): `response` and
`draws` are the model's own (log entries 3 and 4). -/
def State.Answers (s : State) (t : Transaction) (r : Response) : Prop :=
  transact t s = .next { s with response := r, draws := s.draws + 1 }

/-- Two states the host cannot tell apart: they agree on all that has a defined value (R155, R158 to R160) and
on the model's own fields. They may differ in a register whose presence flag is 0, in DATA at and past LENGTH,
and in OUT at and past OUT_LEN. -/
structure State.LooksLike (s t : State) : Prop where
  status : s.status = t.status
  inLen : s.inLen = t.inLen
  inOff : s.inOff = t.inOff
  typeIn : s.typeIn = t.typeIn
  input : s.input = t.input
  dataBytes : s.dataBytes = t.dataBytes
  pending : s.pending = t.pending
  response : s.response = t.response
  draws : s.draws = t.draws
  ctype : s.status.typeValid = true → s.ctype = t.ctype
  chunk : s.status.chunkValid = true → s.chType = t.chType ∧ s.length = t.length ∧ s.crc = t.crc ∧
    ∀ i, i < s.length.toNat → s.data.cell i = t.data.cell i
  consumed : s.status.consumedValid = true → s.consumed = t.consumed
  out : s.status.outValid = true → s.outLen = t.outLen ∧
    ∀ i, i < s.outLen.toNat → s.out.cell i = t.out.cell i
  crcOut : s.status.crcOutValid = true → s.crcOut = t.crcOut

/-- Two outcomes the host cannot tell apart. -/
def OutcomesLookAlike : Outcome → Outcome → Prop
  | .next s, .next t => s.LooksLike t
  | .fault f, .fault g => f = g
  | .refused q, .refused r => q = r
  | _, _ => False

/-- The transactions R56 refuses on a block of `n` DATA bytes. -/
def Transaction.refusedOn (n : Nat) : Transaction → Prop
  | .read .reg off width => width ≠ 32 ∨ off % 4 ≠ 0 ∨ 0x30 < off
  | .write .reg off width _ => width ≠ 32 ∨ off % 4 ≠ 0 ∨ 0x30 < off
  | .read .input i width => width ≠ 8 ∨ n + 12 ≤ i
  | .write .input i width _ => width ≠ 8 ∨ n + 12 ≤ i
  | .read .data i width => width ≠ 8 ∨ n ≤ i
  | .read .out i width => width ≠ 8 ∨ n + 12 ≤ i
  | .write .data _ _ _ => True
  | .write .out _ _ _ => True
  | .reset => False

/-! ### Other ways to say the block's functions, for the claims that they agree -/

/-- Reverse the bits of a value. -/
def reverseBits {w : Nat} (v : BitVec w) : BitVec w := v.reverse

/-- One bit of the catalogue's unreflected CRC with the polynomial 0x04C11DB7: the top bit decides (R91). -/
def catalogueBit (c : Word) : Word := if c.msb then (c <<< 1) ^^^ 0x04C11DB7 else c <<< 1

/-- One byte of the catalogue's CRC: the input byte enters reflected, at the top (R91). -/
def catalogueByte (c : Word) (b : Byte) : Word :=
  Nat.iterate catalogueBit 8 (c ^^^ ((reverseBits b).setWidth 32 <<< 24))

/-- The catalogue's parameter set (R91): width 32, polynomial 0x04C11DB7, initial value 0xFFFFFFFF, input and output
reflected, final XOR 0xFFFFFFFF. -/
def catalogueCrc (s : List Byte) : Word :=
  reverseBits (s.foldl catalogueByte 0xFFFFFFFF) ^^^ 0xFFFFFFFF

/-- The 256-entry table of R92: entry `n` is R90's inner loop applied to `n`. -/
def crcTable : List Word := (List.range 256).map fun n => crcEightBits (BitVec.ofNat 32 n)

/-- The table method of R92. -/
def tableCrc (s : List Byte) : Word :=
  (s.foldl (fun (c : Word) (b : Byte) =>
    crcTable.getD ((c ^^^ b.setWidth 32) &&& 0xFF).toNat 0 ^^^ (c >>> 8)) 0xFFFFFFFF) ^^^
    0xFFFFFFFF

/-- A byte in a range of R131's table, both ends included. -/
def byteBetween (b : Byte) (lo hi : Nat) : Prop := lo ≤ b.toNat ∧ b.toNat ≤ hi

/-- The well-formed UTF-8 sequences, row by row as R131's table lists them. -/
def utf8Sequence : List Byte → Prop
  | [a] => byteBetween a 0x00 0x7F
  | [a, b] => byteBetween a 0xC2 0xDF ∧ byteBetween b 0x80 0xBF
  | [a, b, c] =>
    (byteBetween a 0xE0 0xE0 ∧ byteBetween b 0xA0 0xBF ∧ byteBetween c 0x80 0xBF) ∨
    (byteBetween a 0xE1 0xEC ∧ byteBetween b 0x80 0xBF ∧ byteBetween c 0x80 0xBF) ∨
    (byteBetween a 0xED 0xED ∧ byteBetween b 0x80 0x9F ∧ byteBetween c 0x80 0xBF) ∨
    (byteBetween a 0xEE 0xEF ∧ byteBetween b 0x80 0xBF ∧ byteBetween c 0x80 0xBF)
  | [a, b, c, d] =>
    (byteBetween a 0xF0 0xF0 ∧ byteBetween b 0x90 0xBF ∧ byteBetween c 0x80 0xBF ∧ byteBetween d 0x80 0xBF) ∨
    (byteBetween a 0xF1 0xF3 ∧ byteBetween b 0x80 0xBF ∧ byteBetween c 0x80 0xBF ∧ byteBetween d 0x80 0xBF) ∨
    (byteBetween a 0xF4 0xF4 ∧ byteBetween b 0x80 0x8F ∧ byteBetween c 0x80 0xBF ∧ byteBetween d 0x80 0xBF)
  | _ => False

end Sys2Proof.Machine
end

