-- ==== Sys2Proof/Certificates/Slice0/Obligations.lean ====
section
/-! DEFINITION. The statements for the provers, from the spec's numbered rules. -/

open Sys2Proof Sys2Proof.Machine

/-! ### Command words (R70 to R77) -/

/-- Decoding and encoding agree in both directions: a word decodes to a command exactly when it is that command's
word (R71, R73, R74). -/
def Obligations.DecodeInvertsEncode : Prop :=
  ∀ (w : Word) (i : Instr), decode w = .ok i ↔ w = encode i

/-- R74: a word is legal exactly when bits 31:8 are 0 and bits 7:0 are one of the eight OP values; the mask test says
the same of bits 31:8; and a command is the one whose full 32-bit match value the word equals. -/
def Obligations.LegalWordsAreTheEight : Prop :=
  ∀ w : Word,
    ((∃ i, decode w = .ok i) ↔
      w.extractLsb' 8 24 = 0 ∧
        w.extractLsb' 0 8 ∈ ([0x01, 0x02, 0x03, 0x10, 0x11, 0x12, 0x13, 0x20] : List Byte)) ∧
    (w.extractLsb' 8 24 = 0 ↔ w &&& 0xFFFFFF00 = 0) ∧
    ∀ i, decode w = .ok i ↔ w &&& 0xFFFFFFFF = encode i

/-- R73: the words of the opcode map decode to the commands they stand for. -/
def Obligations.OpcodeMapWordsDecode : Prop :=
  decode 0x00000001 = .ok .ctFromBytes ∧ decode 0x00000002 = .ok .ctFromString ∧
  decode 0x00000003 = .ok .ctFromChunk ∧ decode 0x00000010 = .ok .chunkNew ∧
  decode 0x00000011 = .ok .chunkParse ∧ decode 0x00000012 = .ok .chunkSerialize ∧
  decode 0x00000013 = .ok .chunkUtf8 ∧ decode 0x00000020 = .ok .crcCompute ∧
  decode 0x00000110 = .error .reservedBitsSet ∧ decode 0x00000004 = .error .opcodeUnassigned

/-- R75: the illegal words are those with an OP outside the map or a nonzero RSVD, and writing one to CMD sets ERR to 8
and changes nothing else. -/
def Obligations.IllegalWordReportsAndNothingElse : Prop :=
  ∀ w : Word,
    ((¬ ∃ i, decode w = .ok i) ↔
      w.extractLsb' 8 24 ≠ 0 ∨ (w.extractLsb' 0 8).toNat = 0 ∨
      (0x04 ≤ (w.extractLsb' 0 8).toNat ∧ (w.extractLsb' 0 8).toNat ≤ 0x0F) ∨
      (0x14 ≤ (w.extractLsb' 0 8).toNat ∧ (w.extractLsb' 0 8).toNat ≤ 0x1F) ∨
      0x21 ≤ (w.extractLsb' 0 8).toNat) ∧
    ∀ s : State, (¬ ∃ i, decode w = .ok i) → transact (regWrite 0x00 w) s = .next (s.failed 8)

/-! ### The step (R61, R152, R191) -/

/-- R152: when the host's next transaction writes to CMD a word that decodes to a command, the step is that command,
on the state with the transaction taken off (log entry 2 says how the host's transactions stand in State). -/
def Obligations.StepRunsTheCommandWritten : Prop :=
  ∀ (s : State) (rest : List Transaction) (w : Word) (i : Instr),
    s.pending = regWrite 0x00 w :: rest → decode w = .ok i → step s = exec i (s.afterTaking rest)

/-- R150, R61: when the host has a next transaction, the step is that transaction, whole, on the state with it taken off
(log entry 2 says how the host's transactions stand in State). -/
def Obligations.StepPerformsTheNextTransaction : Prop :=
  ∀ (s : State) (tr : Transaction) (rest : List Transaction),
    s.pending = tr :: rest → step s = transact tr (s.afterTaking rest)

/-- R191: while the host issues no transaction, the block does nothing. -/
def Obligations.IdleStepChangesNothing : Prop :=
  ∀ s : State, s.pending = [] → step s = .next s

/-- R61, R150: a step that answers has taken exactly the host's next transaction off `pending`, or none while none is
pending. The field, and that a RESET keeps it, are the model's choice (log entries 2 and 15). -/
def Obligations.StepTakesOneTransaction : Prop :=
  ∀ s t : State, step s = .next t → t.pending = s.pending.tail

/-- R8: DATA_BYTES is a parameter: no step changes it. -/
def Obligations.StepKeepsDataBytes : Prop :=
  ∀ s t : State, step s = .next t → t.dataBytes = s.dataBytes

/-! ### The eight commands -/

/-- R109: CT_FROM_BYTES copies TYPE_IN to CTYPE and always succeeds. -/
def Obligations.CtFromBytesLoadsTypeIn : Prop :=
  encode .ctFromBytes = 0x00000001 ∧
  ∀ s : State, exec .ctFromBytes s = .next { s with
    ctype := s.typeIn
    status := { s.status with err := 0, typeValid := true }
    draws := s.draws + 1 }

/-- R110: CT_FROM_STRING loads a window of exactly four letters, and reports 9 or 1 otherwise. -/
def Obligations.CtFromStringLoadsFourLetters : Prop :=
  encode .ctFromString = 0x00000002 ∧
  ∀ s : State,
    (¬ s.WindowOk → exec .ctFromString s = .next (s.failed 9)) ∧
    (s.WindowOk → ¬ (s.window.length = 4 ∧ ∀ b ∈ s.window, isLetter b = true) →
      exec .ctFromString s = .next (s.failed 1)) ∧
    (s.WindowOk → s.window.length = 4 → (∀ b ∈ s.window, isLetter b = true) →
      exec .ctFromString s = .next { s with
        ctype := be32 s.window
        status := { s.status with err := 0, typeValid := true }
        draws := s.draws + 1 })

/-- R111: CT_FROM_CHUNK loads the current chunk's type, or reports 7. -/
def Obligations.CtFromChunkLoadsChunkType : Prop :=
  encode .ctFromChunk = 0x00000003 ∧
  ∀ s : State,
    (s.status.chunkValid = false → exec .ctFromChunk s = .next (s.failed 7)) ∧
    (s.status.chunkValid = true → exec .ctFromChunk s = .next { s with
      ctype := s.chType
      status := { s.status with err := 0, typeValid := true }
      draws := s.draws + 1 })

/-- R123: CHUNK_NEW makes the window the payload of a chunk of the loaded type, or reports 9 or 7. -/
def Obligations.ChunkNewBuildsChunk : Prop :=
  encode .chunkNew = 0x00000010 ∧
  ∀ s : State,
    (¬ s.WindowOk → exec .chunkNew s = .next (s.failed 9)) ∧
    (s.WindowOk → s.status.typeValid = false → exec .chunkNew s = .next (s.failed 7)) ∧
    (s.WindowOk → s.status.typeValid = true → s.dataBytes.val < s.inLen.toNat - s.inOff.toNat →
      exec .chunkNew s = .next (s.failed 9)) ∧
    (s.WindowOk → s.status.typeValid = true → s.inLen.toNat - s.inOff.toNat ≤ s.dataBytes.val →
      exec .chunkNew s = .next { s with
        chType := s.ctype
        data := s.data.putBytes 0 s.window
        length := BitVec.ofNat 32 (s.inLen.toNat - s.inOff.toNat)
        crc := crc32 (bytesBE32 s.ctype ++ s.window)
        status := { s.status with err := 0, chunkValid := true, outValid := false, consumedValid := false }
        draws := s.draws + 1 })

/-- R124: CHUNK_PARSE makes its five checks in order, and installs the chunk it read or reports the first error. -/
def Obligations.ChunkParseVerifiesAndInstalls : Prop :=
  encode .chunkParse = 0x00000011 ∧
  ∀ s : State,
    (¬ s.WindowOk → exec .chunkParse s = .next (s.failed 9)) ∧
    (s.WindowOk →
      let n := s.inLen.toNat - s.inOff.toNat
      let l := (be32 (s.windowBytes 0 4)).toNat
      let typeBytes := s.windowBytes 4 4
      let d := s.windowBytes 8 l
      let stored := be32 (s.windowBytes (8 + l) 4)
      (n < 12 → exec .chunkParse s = .next (s.failed 3)) ∧
      (12 ≤ n → s.dataBytes.val < l → exec .chunkParse s = .next (s.failed 9)) ∧
      (12 ≤ n → l ≤ s.dataBytes.val → n < 12 + l → exec .chunkParse s = .next (s.failed 3)) ∧
      (l ≤ s.dataBytes.val → 12 + l ≤ n → crc32 (typeBytes ++ d) ≠ stored →
        exec .chunkParse s = .next (s.failed 2)) ∧
      (l ≤ s.dataBytes.val → 12 + l ≤ n → crc32 (typeBytes ++ d) = stored →
        exec .chunkParse s = .next { s with
          chType := be32 typeBytes
          data := s.data.putBytes 0 d
          length := BitVec.ofNat 32 l
          crc := stored
          consumed := BitVec.ofNat 32 (12 + l)
          status := { s.status with err := 0, chunkValid := true, outValid := false, consumedValid := true }
          draws := s.draws + 1 }))

/-- R127: CHUNK_SERIALIZE writes the current chunk's byte form to OUT, or reports 7. The premise on LENGTH is R37's,
which `InvHoldsAfterEveryStep` keeps. -/
def Obligations.ChunkSerializeEmitsFrame : Prop :=
  encode .chunkSerialize = 0x00000012 ∧
  ∀ s : State,
    (s.status.chunkValid = false → exec .chunkSerialize s = .next (s.failed 7)) ∧
    (s.status.chunkValid = true → s.length.toNat ≤ s.dataBytes.val →
      exec .chunkSerialize s = .next { s with
        out := s.out.putBytes 0 (bytesBE32 s.length ++ bytesBE32 s.chType ++
          s.data.readBytes s.draws 0 s.length.toNat ++ bytesBE32 s.crc)
        outLen := BitVec.ofNat 32 (12 + s.length.toNat)
        status := { s.status with err := 0, outValid := true }
        draws := s.draws + 1 })

/-- R132: CHUNK_UTF8 writes nothing but ERR: 0 for a UTF-8 payload, 5 for another, 7 without a chunk. The premise on
LENGTH is R37's. -/
def Obligations.ChunkUtf8WritesOnlyErr : Prop :=
  encode .chunkUtf8 = 0x00000013 ∧
  ∀ s : State,
    (s.status.chunkValid = false → exec .chunkUtf8 s = .next (s.failed 7)) ∧
    (s.status.chunkValid = true → s.length.toNat ≤ s.dataBytes.val →
      utf8Valid (s.data.readBytes s.draws 0 s.length.toNat) = false →
      exec .chunkUtf8 s = .next (s.failed 5)) ∧
    (s.status.chunkValid = true → s.length.toNat ≤ s.dataBytes.val →
      utf8Valid (s.data.readBytes s.draws 0 s.length.toNat) = true →
      exec .chunkUtf8 s = .next (s.failed 0))

/-- R94: CRC_COMPUTE leaves the CRC of the window in CRCOUT, or reports 9; an empty window gives 0. -/
def Obligations.CrcComputeStoresWindowCrc : Prop :=
  encode .crcCompute = 0x00000020 ∧
  ∀ s : State,
    (¬ s.WindowOk → exec .crcCompute s = .next (s.failed 9)) ∧
    (s.WindowOk → exec .crcCompute s = .next { s with
      crcOut := crc32 s.window
      status := { s.status with err := 0, crcOutValid := true }
      draws := s.draws + 1 }) ∧
    (s.inOff = s.inLen → crc32 s.window = 0x00000000)

/-- The one stop of a command, in states no run reaches: with a chunk whose LENGTH exceeds DATA_BYTES the two commands
that read the payload would read DATA bytes that do not exist (R37, R54; log entry 6, the model's choice). -/
def Obligations.PayloadPastDataFaults : Prop :=
  ∀ s : State, s.status.chunkValid = true → s.dataBytes.val < s.length.toNat →
    exec .chunkSerialize s = .fault .payloadOutsideData ∧ exec .chunkUtf8 s = .fault .payloadOutsideData

/-! ### What the commands write and report (R49, R172, R174) -/

/-- R174: a command word that reports an error writes ERR and nothing else. -/
def Obligations.FailingCommandWritesOnlyErr : Prop :=
  ∀ (w : Word) (s t : State), runCommand w s = .next t → t.status.err ≠ 0 → t = s.failed t.status.err

/-- R172: the error codes of each command, no other code, and each of them for some state. -/
def Obligations.CommandsReportTheirErrorsOnly : Prop :=
  let codes : Instr → List Byte := fun i =>
    match i with
    | .ctFromBytes => [0]
    | .ctFromString => [0, 9, 1]
    | .ctFromChunk => [0, 7]
    | .chunkNew => [0, 9, 7]
    | .chunkParse => [0, 9, 3, 2]
    | .chunkSerialize => [0, 7]
    | .chunkUtf8 => [0, 7, 5]
    | .crcCompute => [0, 9]
  (∀ i s t, exec i s = .next t → t.status.err ∈ codes i) ∧
  (∀ i, ∀ e ∈ codes i, ∃ s t, exec i s = .next t ∧ t.status.err = e) ∧
  ∀ w s t, (¬ ∃ i, decode w = .ok i) → runCommand w s = .next t → t.status.err = 8

/-- R49, the write matrix: the state each successful command writes, and that it writes no other; every byte of every
buffer outside the bytes written reads as before; and a failing command writes only ERR. -/
def Obligations.CommandsWriteTheirStateOnly : Prop :=
  ∀ s t : State,
    (∀ i, exec i s = .next t → t.status.err ≠ 0 → t = s.failed t.status.err) ∧
    (∀ i ∈ [Instr.ctFromBytes, .ctFromString, .ctFromChunk], exec i s = .next t → t.status.err = 0 →
      t.status.typeValid = true ∧
      t = { s with
        ctype := t.ctype
        status := { s.status with err := 0, typeValid := true }
        draws := s.draws + 1 }) ∧
    (exec .chunkNew s = .next t → t.status.err = 0 →
      t = { s with
        chType := t.chType, length := t.length, crc := t.crc, data := t.data
        status := { s.status with err := 0, chunkValid := true, outValid := false, consumedValid := false }
        draws := s.draws + 1 } ∧
      ∀ a, t.length.toNat ≤ a → t.data.cell a = s.data.cell a) ∧
    (exec .chunkParse s = .next t → t.status.err = 0 →
      t = { s with
        chType := t.chType, length := t.length, crc := t.crc, data := t.data, consumed := t.consumed
        status := { s.status with err := 0, chunkValid := true, outValid := false, consumedValid := true }
        draws := s.draws + 1 } ∧
      ∀ a, t.length.toNat ≤ a → t.data.cell a = s.data.cell a) ∧
    (exec .chunkSerialize s = .next t → t.status.err = 0 →
      t = { s with
        out := t.out, outLen := t.outLen
        status := { s.status with err := 0, outValid := true }
        draws := s.draws + 1 } ∧
      t.outLen.toNat = 12 + s.length.toNat ∧
      ∀ a, 12 + s.length.toNat ≤ a → t.out.cell a = s.out.cell a) ∧
    (exec .chunkUtf8 s = .next t → t.status.err = 0 → t = s.failed 0) ∧
    (exec .crcCompute s = .next t → t.status.err = 0 →
      t = { s with
        crcOut := t.crcOut
        status := { s.status with err := 0, crcOutValid := true }
        draws := s.draws + 1 })

/-! ### Buffers and operands (R13, R53, R58) -/

/-- R13: `MemWrite` stores its bytes from the given offset on and nothing else, keeps the canonical form, and a read of
the same bytes gives them back. -/
def Obligations.BufferReadAfterWrite : Prop :=
  ∀ (m : Memory) (a : Nat) (bs : List Byte),
    (∀ i, i < bs.length → (m.putBytes a bs).cell (a + i) = bs[i]?) ∧
    (∀ x, x < a ∨ a + bs.length ≤ x → (m.putBytes a bs).cell x = m.cell x) ∧
    (m.wf = true → (m.putBytes a bs).wf = true) ∧
    ∀ d, (m.putBytes a bs).readBytes d a bs.length = bs

/-- R58 and R13: byte `i` of a packed value is bits `31-8i : 24-8i`; packing and unpacking are inverse. -/
def Obligations.PackingIsBigEndianAndInvertible : Prop :=
  (∀ v : Word, bytesBE32 v =
    [v.extractLsb' 24 8, v.extractLsb' 16 8, v.extractLsb' 8 8, v.extractLsb' 0 8]) ∧
  (∀ a b c d : Byte, (be32 [a, b, c, d]).toNat =
    a.toNat * 2 ^ 24 + b.toNat * 2 ^ 16 + c.toNat * 2 ^ 8 + d.toNat) ∧
  (∀ v : Word, be32 (bytesBE32 v) = v) ∧
  ∀ s : List Byte, s.length = 4 → bytesBE32 (be32 s) = s

/-- R113: two chunk types have the same bytes exactly when their packed values are equal. -/
def Obligations.TypesEqualWhenPackedValuesEqual : Prop :=
  ∀ v w : Word, bytesBE32 v = bytesBE32 w ↔ v = w

/-- R134: chunks of equal type and payload have equal lengths and CRCs. The invariant R43 is a premise. -/
def Obligations.TypeAndPayloadDetermineChunk : Prop :=
  ∀ s t : State, s.Inv → t.Inv → s.status.chunkValid = true → t.status.chunkValid = true →
    (s.chType = t.chType ∧ s.payload = t.payload ↔
      s.chType = t.chType ∧ s.length = t.length ∧ s.payload = t.payload ∧ s.crc = t.crc)

/-! ### The CRC unit (R90 to R95) -/

/-- R91: the catalogue's parameter set computes the same function, and the two vectors the spec gives. -/
def Obligations.CrcIsTheCatalogueCrc : Prop :=
  (∀ s : List Byte, crc32 s = catalogueCrc s) ∧
  crc32 [0x31, 0x32, 0x33, 0x34, 0x35, 0x36, 0x37, 0x38, 0x39] = 0xCBF43926 ∧
  (crc32 ([0x52, 0x75, 0x53, 0x74] ++
    [0x54, 0x68, 0x69, 0x73, 0x20, 0x69, 0x73, 0x20, 0x77, 0x68, 0x65, 0x72, 0x65, 0x20, 0x79, 0x6F, 0x75, 0x72,
      0x20, 0x73, 0x65, 0x63, 0x72, 0x65, 0x74, 0x20, 0x6D, 0x65, 0x73, 0x73, 0x61, 0x67, 0x65, 0x20, 0x77, 0x69,
      0x6C, 0x6C, 0x20, 0x62, 0x65, 0x21])).toNat = 2882656334

/-- R92: the 256-entry table method computes the same function. -/
def Obligations.CrcTableMethodAgrees : Prop :=
  ∀ s : List Byte, tableCrc s = crc32 s

/-- R93: the CRC of the empty sequence is 0; changing any one byte changes the CRC; exchanging two different
neighbouring bytes changes it. -/
def Obligations.CrcDependsOnEveryByteAndOrder : Prop :=
  crc32 [] = 0x00000000 ∧
  (∀ (a b : List Byte) (x y : Byte), x ≠ y → crc32 (a ++ x :: b) ≠ crc32 (a ++ y :: b)) ∧
  ∀ (a b : List Byte) (x y : Byte), x ≠ y → crc32 (a ++ x :: y :: b) ≠ crc32 (a ++ y :: x :: b)

/-! ### The ChunkType unit (R100 to R114) -/

/-- R100: the letters are 0x41 to 0x5A and 0x61 to 0x7A. -/
def Obligations.LettersAreTheAsciiLetters : Prop :=
  ∀ b : Byte, isLetter b = true ↔
    (0x41 ≤ b.toNat ∧ b.toNat ≤ 0x5A) ∨ (0x61 ≤ b.toNat ∧ b.toNat ≤ 0x7A)

/-- R102 to R107 and R42: each bit of PROPS from the bits of the type. -/
def Obligations.PropsBitsDecodeTheType : Prop :=
  ∀ t : Word,
    ((props t).getLsbD 0 = true ↔ t.getLsbD 29 = false) ∧
    ((props t).getLsbD 1 = true ↔ t.getLsbD 21 = false) ∧
    ((props t).getLsbD 2 = true ↔ t.getLsbD 13 = false) ∧
    ((props t).getLsbD 3 = true ↔ t.getLsbD 5 = true) ∧
    ((props t).getLsbD 4 = true ↔ (props t).getLsbD 2 = true ∧ (props t).getLsbD 8 = true ∧
      (props t).getLsbD 9 = true ∧ (props t).getLsbD 10 = true ∧ (props t).getLsbD 11 = true) ∧
    (∀ i, i < 4 → ((props t).getLsbD (8 + i) = true ↔ isLetter (t.extractLsb' (24 - 8 * i) 8) = true)) ∧
    ∀ i, (5 ≤ i ∧ i ≤ 7) ∨ 12 ≤ i → (props t).getLsbD i = false

/-- R114: a window of four letters loads, and the type's bytes are the window's. -/
def Obligations.FourLettersLoadAsThemselves : Prop :=
  ∀ s : State, s.WindowOk → s.window.length = 4 → (∀ b ∈ s.window, isLetter b = true) →
    ∃ t, exec .ctFromString s = .next t ∧ t.status.err = 0 ∧ bytesBE32 t.ctype = s.window

/-! ### The Chunk codec (R120 to R132) -/

/-- R126 and R120: a window that begins with the frame of any type and payload parses to it, whether or not the type
is valid and whatever follows the frame. -/
def Obligations.FrameOfAnyTypeParses : Prop :=
  ∀ (s : State) (t : Word) (d more : List Byte),
    s.WindowOk → d.length ≤ s.dataBytes.val →
    s.window = bytesBE32 (BitVec.ofNat 32 d.length) ++ bytesBE32 t ++ d ++
      bytesBE32 (crc32 (bytesBE32 t ++ d)) ++ more →
    ∃ u, exec .chunkParse s = .next u ∧ u.status.err = 0 ∧ u.status.chunkValid = true ∧ u.chType = t ∧
      u.length.toNat = d.length ∧ u.data.stored 0 d.length = some d ∧ u.crc = crc32 (bytesBE32 t ++ d) ∧
      u.consumed.toNat = 12 + d.length

/-- R125: CHUNK_PARSE does not depend on the window bytes after the first `12 + L`, nor on where the window ends after
them. -/
def Obligations.ParseIgnoresTrailingBytes : Prop :=
  ∀ (s : State) (e : Word) (m : Memory) (t : State),
    let s' := { s with inLen := e, input := m }
    s.WindowOk → s'.WindowOk →
    12 + (be32 (s.windowBytes 0 4)).toNat ≤ s.inLen.toNat - s.inOff.toNat →
    12 + (be32 (s.windowBytes 0 4)).toNat ≤ e.toNat - s.inOff.toNat →
    (∀ i, i < 12 + (be32 (s.windowBytes 0 4)).toNat →
      m.cell (s.inOff.toNat + i) = s.input.cell (s.inOff.toNat + i)) →
    exec .chunkParse s = .next t →
    exec .chunkParse s' = .next { t with inLen := e, input := m } ∧
    (t.status.err = 0 → t.consumed.toNat = 12 + (be32 (s.windowBytes 0 4)).toNat)

/-- R128: the serialization of the current chunk, copied to IN and made the window, parses back to the chunk. -/
def Obligations.SerializeThenParseIsIdentity : Prop :=
  ∀ s : State, s.Inv → s.status.chunkValid = true →
    ∃ t, exec .chunkSerialize s = .next t ∧ t.status.err = 0 ∧
      ∀ (m : Memory) (off fin : Word), fin.toNat ≤ t.inBytes → fin.toNat = off.toNat + t.outLen.toNat →
        (∀ i, i < t.outLen.toNat → m.cell (off.toNat + i) = t.out.cell i) →
        ∃ u, exec .chunkParse { t with input := m, inOff := off, inLen := fin } = .next u ∧ u.status.err = 0 ∧
          u.chType = s.chType ∧ u.length = s.length ∧ u.crc = s.crc ∧
          (∀ i, i < s.length.toNat → u.data.cell i = s.data.cell i) ∧ u.consumed = t.outLen

/-- R129: after a successful parse, serializing gives back the bytes parsed, as the parse read them. -/
def Obligations.ParseThenSerializeIsIdentity : Prop :=
  ∀ s t : State, exec .chunkParse s = .next t → t.status.err = 0 →
    ∃ u, exec .chunkSerialize t = .next u ∧ u.status.err = 0 ∧
      u.out.stored 0 u.outLen.toNat = some (s.window.take t.consumed.toNat)

/-- R130: a frame whose CRC field holds anything but the right four bytes raises ChecksumMismatch; one changed byte
is such a field. -/
def Obligations.CorruptCrcFieldFails : Prop :=
  ∀ (s : State) (t : Word) (d q more : List Byte),
    s.WindowOk → d.length ≤ s.dataBytes.val → q.length = 4 → q ≠ bytesBE32 (crc32 (bytesBE32 t ++ d)) →
    s.window = bytesBE32 (BitVec.ofNat 32 d.length) ++ bytesBE32 t ++ d ++ q ++ more →
    exec .chunkParse s = .next (s.failed 2)

/-- R131: `utf8_valid` holds exactly of the concatenations of zero or more sequences of the table. -/
def Obligations.Utf8ValidIsTheTable : Prop :=
  ∀ s : List Byte, utf8Valid s = true ↔
    ∃ parts : List (List Byte), s = parts.flatten ∧ ∀ p ∈ parts, utf8Sequence p

/-! ### The host's transactions (R150 to R163) -/

/-- R155 and R156: what a read of each register returns; a read changes nothing else. Where the spec says the value is
unspecified (any value) it is the free value of the draw, and the next read has a free value of its own: that form is the
model's choice (log entry 4). -/
def Obligations.RegisterReadsReturn : Prop :=
  ∀ s : State,
    let free := Config.freeWord s.draws
    let returns := fun (off : Nat) (v : Word) => s.Answers (regRead off) (.word v)
    returns 0x00 (free 0x00) ∧
    returns 0x04 s.status.word ∧ returns 0x08 s.inLen ∧ returns 0x0C s.inOff ∧ returns 0x10 s.typeIn ∧
    returns 0x14 (if s.status.typeValid then s.ctype else free 0x14) ∧
    returns 0x18 (if s.status.typeValid then props s.ctype else free 0x18) ∧
    returns 0x1C (if s.status.chunkValid then s.chType else free 0x1C) ∧
    returns 0x20 (if s.status.chunkValid then s.length else free 0x20) ∧
    returns 0x24 (if s.status.chunkValid then s.crc else free 0x24) ∧
    returns 0x28 (if s.status.consumedValid then s.consumed else free 0x28) ∧
    returns 0x2C (if s.status.outValid then s.outLen else free 0x2C) ∧
    returns 0x30 (if s.status.crcOutValid then s.crcOut else free 0x30)

/-- R24: the fields of the STATUS word; the reserved bits are 0 (R42). -/
def Obligations.StatusWordHoldsItsFields : Prop :=
  ∀ st : Status,
    st.word.extractLsb' 0 8 = st.err ∧ st.word.getLsbD 8 = st.typeValid ∧ st.word.getLsbD 9 = st.chunkValid ∧
    st.word.getLsbD 10 = st.outValid ∧ st.word.getLsbD 11 = st.crcOutValid ∧
    st.word.getLsbD 12 = st.consumedValid ∧ ∀ i, 13 ≤ i → st.word.getLsbD i = false

/-- R153: a write to IN_LEN, IN_OFF or TYPE_IN stores all 32 bits, with no check and no other effect. -/
def Obligations.WindowAndTypeWritesStore : Prop :=
  ∀ (s : State) (v : Word),
    transact (regWrite 0x08 v) s = .next { s with inLen := v } ∧
    transact (regWrite 0x0C v) s = .next { s with inOff := v } ∧
    transact (regWrite 0x10 v) s = .next { s with typeIn := v }

/-- R154: a write to a read-only register has no effect. -/
def Obligations.ReadOnlyRegisterWritesDoNothing : Prop :=
  ∀ (s : State) (v : Word), ∀ off ∈ [0x04, 0x14, 0x18, 0x1C, 0x20, 0x24, 0x28, 0x2C, 0x30],
    transact (regWrite off v) s = .next s

/-- R157: a byte written to IN is stored at its offset, and nothing else changes. -/
def Obligations.InWriteStoresOneByte : Prop :=
  ∀ (s : State) (i : Nat) (b : Byte), i < s.dataBytes.val + 12 →
    ∃ t, transact (inWrite i b) s = .next t ∧ t = { s with input := t.input } ∧
      t.input.cell i = some b ∧ ∀ a, a ≠ i → t.input.cell a = s.input.cell a

/-- R158: an IN read, and a command's read of a window byte, gives the byte last written, or any value if none was; after
a reset none has been written, and a write makes its byte the one last written. That any value is the free value of the
draw is the model's choice (log entry 4). -/
def Obligations.InReadsGiveLastByteWritten : Prop :=
  (∀ (s : State) (i : Nat), i < s.dataBytes.val + 12 →
    (∀ b, s.input.cell i = some b → s.Answers (byteRead .input i) (.byte b)) ∧
    (s.input.cell i = none → s.Answers (byteRead .input i) (.byte (Config.freeByte s.draws i)))) ∧
  (∀ (s : State) (i : Nat), i < s.inLen.toNat - s.inOff.toNat →
    (∀ b, s.input.cell (s.inOff.toNat + i) = some b → s.window[i]? = some b) ∧
    (s.input.cell (s.inOff.toNat + i) = none →
      s.window[i]? = some (Config.freeByte s.draws (s.inOff.toNat + i)))) ∧
  (∀ i, State.reset.input.cell i = none) ∧
  (∀ s t : State, transact .reset s = .next t → ∀ i, t.input.cell i = none) ∧
  ∀ (s t : State) (i : Nat) (b : Byte), transact (inWrite i b) s = .next t → t.input.cell i = some b

/-- R159 and R160: DATA and OUT bytes read as stored inside the current chunk and the current serialization, and as any
value elsewhere. The premise is the invariant: R43 and R28 say that the bytes inside have been written. That any value is
the free value of the draw is the model's choice (log entry 4). -/
def Obligations.DataAndOutReadsReturn : Prop :=
  ∀ (s : State) (i : Nat), s.Inv →
    (i < s.dataBytes.val →
      (s.status.chunkValid = true ∧ i < s.length.toNat →
        ∃ b, s.data.cell i = some b ∧ s.Answers (byteRead .data i) (.byte b)) ∧
      (¬ (s.status.chunkValid = true ∧ i < s.length.toNat) →
        s.Answers (byteRead .data i) (.byte (Config.freeByte s.draws i)))) ∧
    (i < s.dataBytes.val + 12 →
      (s.status.outValid = true ∧ i < s.outLen.toNat →
        ∃ b, s.out.cell i = some b ∧ s.Answers (byteRead .out i) (.byte b)) ∧
      (¬ (s.status.outValid = true ∧ i < s.outLen.toNat) →
        s.Answers (byteRead .out i) (.byte (Config.freeByte s.draws i))))

/-- R62: a read that the interface defines changes no state of the block. -/
def Obligations.ReadsChangeNoState : Prop :=
  ∀ (s t : State) (sp : Space) (off width : Nat), transact (.read sp off width) s = .next t →
    t = { s with response := t.response, draws := s.draws + 1 }

/-- R56: a transaction is refused exactly when it is one of those R56 lists. -/
def Obligations.RefusedTransactionsAreTheListed : Prop :=
  ∀ (s : State) (tr : Transaction), (∃ r, transact tr s = .refused r) ↔ tr.refusedOn s.dataBytes.val

/-- R48, R161 and R190: RESET from any state, and the state after power-on: the registers with a reset value hold it, every
other register and every byte is unspecified. The first clause also has what is the model's choice: the zeros that
`State.reset` stores in the unspecified registers (log entry 5), and that a RESET keeps `dataBytes`, `pending` and `draws`
(log entry 15). -/
def Obligations.ResetLeavesTheResetTable : Prop :=
  (∀ s : State, transact .reset s =
    .next { State.reset with dataBytes := s.dataBytes, pending := s.pending, draws := s.draws }) ∧
  State.reset.status.word = 0x00000000 ∧ State.reset.inLen = 0 ∧ State.reset.inOff = 0 ∧
  State.reset.typeIn = 0x00000000 ∧
  (∀ r ∈ [Reg.ctype, .props, .chType, .length, .crc, .consumed, .outLen, .crcOut],
    State.reset.regValue r = none) ∧
  ∀ i, State.reset.input.cell i = none ∧ State.reset.data.cell i = none ∧ State.reset.out.cell i = none

/-- R163: the chunk changes only by CHUNK_NEW or CHUNK_PARSE and the loaded type only by the three load commands, or
by a RESET; and a transaction that is neither a CMD write nor a RESET leaves the chunk, the type, CONSUMED, OUT, OUT_LEN,
CRCOUT and STATUS as they were. -/
def Obligations.OnlyCommandsChangeChunkAndType : Prop :=
  (∀ (s t : State) (tr : Transaction), transact tr s = .next t →
    t.chType ≠ s.chType ∨ t.length ≠ s.length ∨ t.crc ≠ s.crc ∨ t.data ≠ s.data →
    tr = .reset ∨ ∃ i ∈ [Instr.chunkNew, .chunkParse], tr = regWrite 0x00 (encode i)) ∧
  (∀ (s t : State) (tr : Transaction), transact tr s = .next t → t.ctype ≠ s.ctype →
    tr = .reset ∨ ∃ i ∈ [Instr.ctFromBytes, .ctFromString, .ctFromChunk], tr = regWrite 0x00 (encode i)) ∧
  ∀ (s t : State) (tr : Transaction), (∀ w, tr ≠ regWrite 0x00 w) → tr ≠ .reset → transact tr s = .next t →
    t = { s with
      inLen := t.inLen, inOff := t.inOff, typeIn := t.typeIn, input := t.input
      response := t.response, draws := t.draws }

/-- R26, R27 and R29: which commands set TYPE_VALID, CHUNK_VALID and CRCOUT_VALID, that no other transaction sets them,
that nothing clears them but a RESET, and that a failing CHUNK_PARSE leaves the chunk. -/
def Obligations.PresenceFlagsSetOnceKept : Prop :=
  (∀ s t, exec .chunkParse s = .next t → t.status.err ≠ 0 → t = s.failed t.status.err) ∧
  (∀ i s t, exec i s = .next t → t.status.err = 0 →
    (i ∈ [Instr.ctFromBytes, .ctFromString, .ctFromChunk] → t.status.typeValid = true) ∧
    (i ∈ [Instr.chunkNew, .chunkParse] → t.status.chunkValid = true) ∧
    (i = .crcCompute → t.status.crcOutValid = true)) ∧
  (∀ s t tr, transact tr s = .next t → tr ≠ .reset →
    (s.status.typeValid = true → t.status.typeValid = true) ∧
    (s.status.chunkValid = true → t.status.chunkValid = true) ∧
    (s.status.crcOutValid = true → t.status.crcOutValid = true)) ∧
  ∀ s t tr, transact tr s = .next t →
    let ranOne := fun is : List Instr => ∃ i ∈ is, tr = regWrite 0x00 (encode i) ∧ t.status.err = 0
    (s.status.typeValid = false → t.status.typeValid = true → ranOne [.ctFromBytes, .ctFromString, .ctFromChunk]) ∧
    (s.status.chunkValid = false → t.status.chunkValid = true → ranOne [.chunkNew, .chunkParse]) ∧
    (s.status.crcOutValid = false → t.status.crcOutValid = true → ranOne [.crcCompute])

/-- R28 and R30: what sets and clears OUT_VALID and CONSUMED_VALID, and what OUT holds while OUT_VALID is set. -/
def Obligations.OutAndConsumedFlagsFollowTheChunk : Prop :=
  (∀ s t, exec .chunkSerialize s = .next t → t.status.err = 0 → t.status.outValid = true) ∧
  (∀ s t, exec .chunkNew s = .next t → t.status.err = 0 →
    t.status.outValid = false ∧ t.status.consumedValid = false) ∧
  (∀ s t, exec .chunkParse s = .next t → t.status.err = 0 →
    t.status.outValid = false ∧ t.status.consumedValid = true) ∧
  ∀ s : State, s.Inv → s.status.outValid = true →
    s.out.stored 0 s.outLen.toNat = some (bytesBE32 s.length ++ bytesBE32 s.chType ++ s.payload ++ bytesBE32 s.crc)

/-! ### The whole machine -/

/-- The invariant (R25, R28, R37, R39, R40, R43) holds at reset. -/
def Obligations.ResetStateMeetsInv : Prop := State.reset.Inv

/-- Every step keeps the invariant, from every state that meets it: the chunk's CRC is right, LENGTH fits DATA, OUT and
CONSUMED describe the chunk, ERR is a code the block writes, and the buffers are canonical and within their sizes. -/
def Obligations.InvHoldsAfterEveryStep : Prop :=
  ∀ s t : State, s.Inv → step s = .next t → t.Inv

/-- R170 and R18: no step of a state that meets the invariant ends in a fault. -/
def Obligations.NoStepFaults : Prop :=
  ∀ s : State, s.Inv → ∀ f, step s ≠ .fault f

/-- R198 and R155 to R160: two states that differ only in what has no defined value go on to answer every transaction
alike: no value the model stored for an unspecified register or byte (log entry 5) can be observed. -/
def Obligations.UnspecifiedStateIsUnobservable : Prop :=
  ∀ s t : State, s.LooksLike t → OutcomesLookAlike (step s) (step t)
end

