-- ==== Sys2Proof/Laws/Crc.lean ====
section
/-! SUPPORT. The algebra of the CRC step: it is linear over exclusive or and it is injective. -/

namespace Sys2Proof.Machine

theorem crcBit_xor (a b : Word) : crcBit (a ^^^ b) = crcBit a ^^^ crcBit b := by
  unfold crcBit
  rw [BitVec.getLsbD_xor, BitVec.ushiftRight_xor_distrib]
  cases a.getLsbD 0 <;> cases b.getLsbD 0 <;> simp
  · rw [BitVec.xor_assoc]
  · rw [BitVec.xor_assoc, BitVec.xor_assoc, BitVec.xor_comm (b >>> 1)]
  · rw [BitVec.xor_assoc, BitVec.xor_comm (3988292384#32), BitVec.xor_assoc, BitVec.xor_self, BitVec.xor_zero]

theorem crcEightBits_xor (a b : Word) : crcEightBits (a ^^^ b) = crcEightBits a ^^^ crcEightBits b := by
  simp only [crcEightBits, crcBit_xor]

theorem crcBit_zero : crcBit 0 = 0 := rfl

/-- A step whose low bit is clear is a shift. -/
theorem crcBit_of_even {c : Word} (h : c.getLsbD 0 = false) : crcBit c = c >>> 1 := by
  rw [crcBit, h]
  rfl

/-- The top bit after a step is the bit shifted out. -/
theorem crcBit_top (c : Word) : (crcBit c).getLsbD 31 = c.getLsbD 0 := by
  unfold crcBit
  cases h : c.getLsbD 0
  · simp
  · simp

theorem eq_zero_of_crcBit {c : Word} (h : crcBit c = 0) : c = 0 := by
  have h0 : c.getLsbD 0 = false := by rw [← crcBit_top, h]; rfl
  rw [crcBit_of_even h0] at h
  apply BitVec.eq_of_getLsbD_eq
  intro i hi
  cases i with
  | zero => rw [h0]; rfl
  | succ i =>
    have := congrArg (fun v => BitVec.getLsbD v i) h
    simp only [BitVec.getLsbD_ushiftRight] at this
    rw [show i + 1 = 1 + i by omega, this]
    simp

theorem crcBit_injective {a b : Word} (h : crcBit a = crcBit b) : a = b := by
  have : crcBit (a ^^^ b) = 0 := by rw [crcBit_xor, h, BitVec.xor_self]; rfl
  exact BitVec.xor_eq_zero_iff.mp (eq_zero_of_crcBit this)

theorem crcEightBits_injective {a b : Word} (h : crcEightBits a = crcEightBits b) : a = b := by
  unfold crcEightBits at h
  exact crcBit_injective (crcBit_injective (crcBit_injective (crcBit_injective (crcBit_injective
    (crcBit_injective (crcBit_injective (crcBit_injective h)))))))

/-- Two remainders stay different under the same byte. -/
theorem crcByte_injective_remainder {a b : Word} {x : Byte} (h : crcByte a x = crcByte b x) : a = b :=
  (BitVec.xor_left_inj _).mp (crcEightBits_injective h)

/-- Two remainders stay different under the same bytes. -/
theorem crcRemainder_injective {s : List Byte} {a b : Word} (h : crcRemainder a s = crcRemainder b s) : a = b := by
  induction s generalizing a b with
  | nil => exact h
  | cons x s ih => exact crcByte_injective_remainder (ih h)

theorem crcRemainder_append (c : Word) (s t : List Byte) :
    crcRemainder c (s ++ t) = crcRemainder (crcRemainder c s) t := by
  simp [crcRemainder]

@[simp] theorem crcRemainder_nil (c : Word) : crcRemainder c [] = c := rfl

theorem crcRemainder_cons (c : Word) (x : Byte) (s : List Byte) :
    crcRemainder c (x :: s) = crcRemainder (crcByte c x) s := rfl

/-- Equal CRCs come from equal remainders. -/
theorem crc32_eq_iff (s t : List Byte) : crc32 s = crc32 t ↔ crcRemainder 0xFFFFFFFF s = crcRemainder 0xFFFFFFFF t := by
  simp [crc32]

end Sys2Proof.Machine
end

