-- ==== Sys2Proof/Laws/Decode.lean ====
section
/-! SUPPORT. The laws of the command word: it is its two fields, and the word of each command decodes to it. -/

namespace Sys2Proof

/-- A word is determined by its OP and RSVD fields (R71). -/
theorem word_eq_of_fields {w v : Word} (hop : opField w = opField v) (hrsvd : rsvdField w = rsvdField v) : w = v := by
  apply BitVec.eq_of_toNat_eq
  have a := congrArg BitVec.toNat hop
  have b := congrArg BitVec.toNat hrsvd
  simp only [opField, rsvdField, BitVec.extractLsb'_toNat, Nat.shiftRight_eq_div_pow] at a b
  have := w.isLt
  have := v.isLt
  omega

@[simp] theorem opField_encode (i : Instr) : opField (encode i) = i.opcode := by
  cases i <;> rfl

@[simp] theorem rsvdField_encode (i : Instr) : rsvdField (encode i) = 0 := by
  cases i <;> rfl

/-- The command of a row, decoded from its word. -/
theorem decode_encode (i : Instr) : decode (encode i) = .ok i := by
  cases i <;> rfl

/-- A word that decodes has RSVD zero and the command's OP. -/
theorem fields_of_decode {w : Word} {i : Instr} (h : decode w = .ok i) :
    rsvdField w = 0 ∧ opField w = i.opcode := by
  unfold decode at h
  split at h
  · cases h
  · rename_i hr
    split at h
    · rename_i j hj
      cases h
      have hop := List.find?_some hj
      exact ⟨not_not.mp hr, (by simpa using hop : i.opcode = opField w).symm⟩
    · cases h

end Sys2Proof
end

