-- ==== Sys2Proof/Laws/Memory.lean ====
section
/-! SUPPORT. The laws of a buffer: what a read after a write gives, that every operation keeps the canonical
form and the bounds, and how reads of several bytes relate to reads of one. -/

namespace Sys2Proof.Machine

/-! ### One byte -/

@[simp] theorem Memory.cell_nil (a : Nat) : Memory.cell [] a = none := rfl

/-- Read after write: the offset written holds the byte, every other offset is left alone. -/
theorem Memory.cell_put (m : Memory) (a : Nat) (b : Byte) (x : Nat) :
    (m.put a b).cell x = if x = a then some b else m.cell x := by
  induction m with
  | nil =>
    simp only [Memory.put, Memory.cell, eq_comm]
  | cons c rest ih =>
    obtain ⟨k, v⟩ := c
    simp only [Memory.put]
    split
    · simp only [Memory.cell, eq_comm]
    · split
      · subst_vars
        simp only [Memory.cell, eq_comm]
        by_cases hx : x = k <;> simp [hx]
      · rename_i hne
        simp only [Memory.cell, ih]
        by_cases hk : k = x
        · subst hk
          rw [if_pos rfl, if_neg (fun h => hne h.symm), if_pos rfl]
        · rw [if_neg hk, if_neg hk]

@[simp] theorem Memory.cell_put_self (m : Memory) (a : Nat) (b : Byte) : (m.put a b).cell a = some b := by
  simp [Memory.cell_put]

theorem Memory.cell_put_of_ne (m : Memory) {a x : Nat} (b : Byte) (h : x ≠ a) :
    (m.put a b).cell x = m.cell x := by
  simp [Memory.cell_put, h]

/-- A byte that has been written reads the same in every draw. -/
theorem Memory.readByte_of_cell {m : Memory} {a : Nat} {b : Byte} (h : m.cell a = some b) (d : Nat) :
    m.readByte d a = b := by
  simp [Memory.readByte, h]

/-- A byte that has not been written reads as the draw's free byte. -/
theorem Memory.readByte_of_unwritten {m : Memory} {a : Nat} (h : m.cell a = none) (d : Nat) :
    m.readByte d a = Config.freeByte d a := by
  simp [Memory.readByte, h]

/-! ### Canonical form and bounds -/

/-- Every listed offset of the result is the one written or was listed before. -/
theorem Memory.all_put {m : Memory} {a : Nat} {b : Byte} {p : Nat → Bool}
    (hm : m.all (fun c => p c.1) = true) (ha : p a = true) :
    (m.put a b).all (fun c => p c.1) = true := by
  induction m with
  | nil => simp [Memory.put, ha]
  | cons c rest ih =>
    obtain ⟨k, v⟩ := c
    rw [List.all_cons, Bool.and_eq_true] at hm
    simp only [Memory.put]
    split
    · rw [List.all_cons, List.all_cons, ha, hm.1, hm.2]; rfl
    · split
      · rw [List.all_cons, ha, hm.2]; rfl
      · rw [List.all_cons, hm.1, ih hm.2]; rfl

theorem Memory.wf_put {m : Memory} (h : m.wf = true) (a : Nat) (b : Byte) : (m.put a b).wf = true := by
  induction m with
  | nil => rfl
  | cons c rest ih =>
    obtain ⟨k, v⟩ := c
    simp only [Memory.wf, Bool.and_eq_true] at h
    simp only [Memory.put]
    split
    · rename_i hlt
      simp only [Memory.wf, Bool.and_eq_true, List.all_cons, decide_eq_true_eq]
      refine ⟨⟨hlt, ?_⟩, h⟩
      have h1 := h.1
      rw [List.all_eq_true] at h1 ⊢
      intro c hc
      have := h1 c hc
      simp only [decide_eq_true_eq] at this ⊢
      omega
    · split
      · rename_i heq
        simp only [Memory.wf, Bool.and_eq_true]
        exact ⟨heq ▸ h.1, h.2⟩
      · rename_i hnlt hne
        simp only [Memory.wf, Bool.and_eq_true]
        exact ⟨Memory.all_put (p := fun x => decide (k < x)) h.1 (by simp; omega), ih h.2⟩

theorem Memory.within_put {m : Memory} {n a : Nat} (h : m.within n = true) (ha : a < n) (b : Byte) :
    (m.put a b).within n = true :=
  Memory.all_put (p := fun x => decide (x < n)) h (by simpa using ha)

theorem Memory.wf_putBytes {m : Memory} (h : m.wf = true) (a : Nat) (bs : List Byte) :
    (m.putBytes a bs).wf = true := by
  induction bs generalizing m a with
  | nil => exact h
  | cons b bs ih => exact ih (Memory.wf_put h a b) (a + 1)

theorem Memory.within_putBytes {m : Memory} {n : Nat} (h : m.within n = true) {a : Nat} {bs : List Byte}
    (ha : a + bs.length ≤ n) : (m.putBytes a bs).within n = true := by
  induction bs generalizing m a with
  | nil => exact h
  | cons b bs ih =>
    rw [List.length_cons] at ha
    exact ih (Memory.within_put h (by omega) b) (by omega)

/-! ### Several bytes -/

/-- What a `MemWrite` stores, offset by offset, and that it stores nothing else. -/
theorem Memory.cell_putBytes (m : Memory) (a : Nat) (bs : List Byte) (x : Nat) :
    (m.putBytes a bs).cell x = if a ≤ x ∧ x < a + bs.length then bs[x - a]? else m.cell x := by
  induction bs generalizing m a with
  | nil => simp [Memory.putBytes]
  | cons b bs ih =>
    rw [Memory.putBytes, ih, Memory.cell_put, List.length_cons]
    by_cases hx : x = a
    · subst hx
      rw [if_neg (by omega), if_pos rfl, if_pos (by omega)]
      simp
    · rw [if_neg hx]
      by_cases hr : a + 1 ≤ x ∧ x < a + 1 + bs.length
      · rw [if_pos hr, if_pos (by omega)]
        obtain ⟨j, hj⟩ : ∃ j, x = a + 1 + j := ⟨x - (a + 1), by omega⟩
        subst hj
        rw [show a + 1 + j - (a + 1) = j by omega, show a + 1 + j - a = j + 1 by omega]
        simp
      · rw [if_neg hr, if_neg (by omega)]

theorem Memory.cell_putBytes_of_lt (m : Memory) {a : Nat} (bs : List Byte) {i : Nat} (h : i < bs.length) :
    (m.putBytes a bs).cell (a + i) = bs[i]? := by
  rw [Memory.cell_putBytes, if_pos (by omega)]
  congr 1
  omega

theorem Memory.cell_putBytes_outside (m : Memory) {a : Nat} (bs : List Byte) {x : Nat}
    (h : x < a ∨ a + bs.length ≤ x) : (m.putBytes a bs).cell x = m.cell x := by
  rw [Memory.cell_putBytes, if_neg (by omega)]

@[simp] theorem Memory.readBytes_length (m : Memory) (d a n : Nat) : (m.readBytes d a n).length = n := by
  induction n generalizing a with
  | zero => rfl
  | succ n ih => simp [Memory.readBytes, ih]

theorem Memory.readBytes_getElem? (m : Memory) (d a n i : Nat) :
    (m.readBytes d a n)[i]? = if i < n then some (m.readByte d (a + i)) else none := by
  induction n generalizing a i with
  | zero => simp [Memory.readBytes]
  | succ n ih =>
    cases i with
    | zero => simp [Memory.readBytes]
    | succ i =>
      rw [Memory.readBytes, List.getElem?_cons_succ, ih, show a + 1 + i = a + (i + 1) by omega]
      simp

/-- A read of `n + k` bytes is a read of `n` followed by a read of `k`. -/
theorem Memory.readBytes_add (m : Memory) (d a n k : Nat) :
    m.readBytes d a (n + k) = m.readBytes d a n ++ m.readBytes d (a + n) k := by
  induction n generalizing a with
  | zero => simp [Memory.readBytes]
  | succ n ih =>
    rw [show n + 1 + k = (n + k) + 1 by omega, Memory.readBytes, ih, Memory.readBytes, List.cons_append,
      show a + 1 + n = a + (n + 1) by omega]

/-- A read depends on the bytes read and the draw alone. -/
theorem Memory.readBytes_congr {m m' : Memory} {d a a' n : Nat}
    (h : ∀ i, i < n → m.readByte d (a + i) = m'.readByte d (a' + i)) :
    m.readBytes d a n = m'.readBytes d a' n := by
  apply List.ext_getElem?
  intro i
  rw [Memory.readBytes_getElem?, Memory.readBytes_getElem?]
  split
  · rw [h i ‹_›]
  · rfl

/-- The stored bytes are those of `bs` exactly when `bs` has their number and each is the byte at its offset. -/
theorem Memory.stored_eq_some_iff {m : Memory} {a n : Nat} {bs : List Byte} :
    m.stored a n = some bs ↔ bs.length = n ∧ ∀ i, i < n → m.cell (a + i) = bs[i]? := by
  induction n generalizing a bs with
  | zero =>
    simp only [Memory.stored, Option.some.injEq, Nat.not_lt_zero, false_implies, implies_true, and_true]
    exact ⟨fun h => h ▸ rfl, fun h => (List.length_eq_zero_iff.mp h).symm⟩
  | succ n ih =>
    constructor
    · intro h
      simp only [Memory.stored] at h
      split at h
      · rename_i b bs' hb hbs
        obtain ⟨hlen, hget⟩ := ih.mp hbs
        obtain rfl := Option.some.inj h
        refine ⟨by simp [hlen], fun i hi => ?_⟩
        cases i with
        | zero => simpa using hb
        | succ i =>
          rw [List.getElem?_cons_succ, ← hget i (by omega), show a + 1 + i = a + (i + 1) by omega]
      · cases h
    · rintro ⟨hlen, hget⟩
      cases bs with
      | nil => simp at hlen
      | cons b bs =>
        have h0 : m.cell a = some b := by simpa using hget 0 (by omega)
        have h1 : m.stored (a + 1) n = some bs := by
          refine ih.mpr ⟨by simpa using hlen, fun i hi => ?_⟩
          have := hget (i + 1) (by omega)
          rw [List.getElem?_cons_succ] at this
          rw [← this, show a + 1 + i = a + (i + 1) by omega]
        simp only [Memory.stored, h0, h1]

/-- Stored bytes read the same in every draw. -/
theorem Memory.readBytes_of_stored {m : Memory} {a n : Nat} {bs : List Byte} (h : m.stored a n = some bs)
    (d : Nat) : m.readBytes d a n = bs := by
  obtain ⟨hlen, hget⟩ := Memory.stored_eq_some_iff.mp h
  apply List.ext_getElem?
  intro i
  rw [Memory.readBytes_getElem?]
  split
  · rename_i hi
    rw [Memory.readByte, hget i hi, List.getElem?_eq_getElem (by omega)]
    rfl
  · exact (List.getElem?_eq_none (by omega)).symm

/-- A `MemWrite` stores what it was given. -/
theorem Memory.stored_putBytes (m : Memory) (a : Nat) (bs : List Byte) :
    (m.putBytes a bs).stored a bs.length = some bs :=
  Memory.stored_eq_some_iff.mpr ⟨rfl, fun _ hi => Memory.cell_putBytes_of_lt m bs hi⟩

/-- Equal cells hold equal stored bytes. -/
theorem Memory.stored_congr {m m' : Memory} {a a' n : Nat}
    (h : ∀ i, i < n → m.cell (a + i) = m'.cell (a' + i)) : m.stored a n = m'.stored a' n := by
  induction n generalizing a a' with
  | zero => rfl
  | succ n ih =>
    have h0 : m.cell a = m'.cell a' := by simpa using h 0 (by omega)
    have h1 : m.stored (a + 1) n = m'.stored (a' + 1) n := by
      refine ih fun i hi => ?_
      have := h (i + 1) (by omega)
      rwa [show a + (i + 1) = a + 1 + i by omega, show a' + (i + 1) = a' + 1 + i by omega] at this
    simp only [Memory.stored, h0, h1]

end Sys2Proof.Machine
end

