-- ==== Sys2Proof/Laws/Operands.lean ====
section
/-! SUPPORT. The laws of the packed bytes, the window, the payload and the register map. -/

namespace Sys2Proof.Machine

/-! ### Packed bytes (R13, R58) -/

@[simp] theorem bytesBE32_length (v : Word) : (bytesBE32 v).length = 4 := rfl

theorem packedByte_toNat (v : Word) (i : Nat) :
    (packedByte v i).toNat = v.toNat / 2 ^ (24 - 8 * i) % 256 := by
  simp [packedByte, Nat.shiftRight_eq_div_pow]

theorem be32_four_toNat (a b c d : Byte) :
    (be32 [a, b, c, d]).toNat = a.toNat * 2 ^ 24 + b.toNat * 2 ^ 16 + c.toNat * 2 ^ 8 + d.toNat := by
  have ha := a.isLt
  have hb := b.isLt
  have hc := c.isLt
  have hd := d.isLt
  have h0 : (0 : Word).toNat = 0 := rfl
  have h256 : (256 : Word).toNat = 256 := rfl
  simp only [be32, List.foldl, BitVec.toNat_add, BitVec.toNat_mul, BitVec.toNat_setWidth, h0, h256]
  omega

theorem be32_bytesBE32 (v : Word) : be32 (bytesBE32 v) = v := by
  apply BitVec.eq_of_toNat_eq
  have hv := v.isLt
  simp only [bytesBE32, be32_four_toNat, packedByte_toNat]
  omega

theorem bytesBE32_be32_four (a b c d : Byte) : bytesBE32 (be32 [a, b, c, d]) = [a, b, c, d] := by
  have ha := a.isLt
  have hb := b.isLt
  have hc := c.isLt
  have hd := d.isLt
  have hn := be32_four_toNat a b c d
  have e0 : packedByte (be32 [a, b, c, d]) 0 = a :=
    BitVec.eq_of_toNat_eq (by rw [packedByte_toNat, hn]; omega)
  have e1 : packedByte (be32 [a, b, c, d]) 1 = b :=
    BitVec.eq_of_toNat_eq (by rw [packedByte_toNat, hn]; omega)
  have e2 : packedByte (be32 [a, b, c, d]) 2 = c :=
    BitVec.eq_of_toNat_eq (by rw [packedByte_toNat, hn]; omega)
  have e3 : packedByte (be32 [a, b, c, d]) 3 = d :=
    BitVec.eq_of_toNat_eq (by rw [packedByte_toNat, hn]; omega)
  simp only [bytesBE32, e0, e1, e2, e3]

/-- Packing and unpacking four bytes are inverse (R13). -/
theorem bytesBE32_be32 {s : List Byte} (h : s.length = 4) : bytesBE32 (be32 s) = s := by
  match s, h with
  | [a, b, c, d], _ => exact bytesBE32_be32_four a b c d

theorem bytesBE32_injective {v w : Word} (h : bytesBE32 v = bytesBE32 w) : v = w := by
  rw [← be32_bytesBE32 v, h, be32_bytesBE32]

/-! ### The window (R53) -/

@[simp] theorem State.windowBytes_length (s : State) (i n : Nat) : (s.windowBytes i n).length = n := by
  simp [State.windowBytes]

@[simp] theorem State.window_length (s : State) : s.window.length = s.windowSize := by
  simp [State.window]

theorem State.windowBytes_getElem? (s : State) (i n j : Nat) :
    (s.windowBytes i n)[j]? =
      if j < n then some (s.input.readByte s.draws (s.inOff.toNat + i + j)) else none := by
  simp [State.windowBytes, Memory.readBytes_getElem?]

/-- A read of part of the window is that part of the window. -/
theorem State.windowBytes_eq (s : State) {i n : Nat} (h : i + n ≤ s.windowSize) :
    s.windowBytes i n = (s.window.drop i).take n := by
  apply List.ext_getElem?
  intro j
  rw [State.windowBytes_getElem?, List.getElem?_take, List.getElem?_drop, State.window,
    State.windowBytes_getElem?]
  split
  · rw [if_pos (by omega), Nat.add_zero, Nat.add_assoc]
  · rfl

/-- Consecutive reads join. -/
theorem State.windowBytes_add (s : State) (i n k : Nat) :
    s.windowBytes i (n + k) = s.windowBytes i n ++ s.windowBytes (i + n) k := by
  simp [State.windowBytes, Memory.readBytes_add, Nat.add_assoc]

theorem State.windowInRange_iff {s : State} :
    s.windowInRange = true ↔ s.inLen.toNat ≤ s.inBytes ∧ s.inOff.toNat ≤ s.inLen.toNat := by
  simp [State.windowInRange]

/-- A window is no longer than IN. -/
theorem State.windowSize_le {s : State} (h : s.windowInRange = true) : s.windowSize ≤ s.dataBytes.val + 12 := by
  obtain ⟨h1, _⟩ := State.windowInRange_iff.mp h
  simp only [State.windowSize, State.inBytes] at *
  omega

theorem withWindow_of_inRange {s : State} {k : Outcome} (h : s.windowInRange = true) : withWindow s k = k := by
  simp [withWindow, h]

theorem withWindow_of_outside {s : State} {k : Outcome} (h : s.windowInRange = false) :
    withWindow s k = raise .capacityExceeded s := by
  simp [withWindow, h]

/-! ### The current chunk (R43) -/

@[simp] theorem State.payload_length (s : State) : s.payload.length = s.length.toNat := by
  simp [State.payload]

theorem State.payloadInData_iff {s : State} : s.payloadInData = true ↔ s.length.toNat ≤ s.dataBytes.val := by
  simp [State.payloadInData]

theorem withChunk_of_valid {s : State} {k : Outcome} (h : s.status.chunkValid = true) : withChunk s k = k := by
  simp [withChunk, h]

theorem withChunk_of_none {s : State} {k : Outcome} (h : s.status.chunkValid = false) :
    withChunk s k = raise .notLoaded s := by
  simp [withChunk, h]

theorem withPayload_of_inData {s : State} {k : List Byte → Outcome} (h : s.payloadInData = true) :
    withPayload s k = k s.payload := by
  simp [withPayload, h]

/-- The number of bytes of a frame (R122). -/
theorem frameBytes_length (len t : Word) (d : List Byte) (c : Word) :
    (frameBytes len t d c).length = 12 + d.length := by
  simp [frameBytes]; omega

/-! ### The register map (R20, R51) -/

theorem Reg.ofOffset_offset (r : Reg) : Reg.ofOffset r.offset = some r := by
  cases r <;> rfl

theorem Reg.offset_of_ofOffset {off : Nat} {r : Reg} (h : Reg.ofOffset off = some r) : r.offset = off := by
  have := List.find?_some h
  simpa using this

theorem Reg.offset_mod_four (r : Reg) : r.offset % 4 = 0 := by
  cases r <;> rfl

end Sys2Proof.Machine
end

