-- ==== Sys2Proof/Laws/State.lean ====
section
/-! SUPPORT. What each named update of State does to each field: one lemma per field per update, all true by
`rfl`. A proof that meets an update simplifies with these and never unfolds the record. -/

namespace Sys2Proof.Machine

variable (s : State)

@[simp] theorem State.settle_status (e : ErrorCode) : (s.settle e).status = { s.status with err := e.code } := rfl
@[simp] theorem State.settle_inLen (e : ErrorCode) : (s.settle e).inLen = s.inLen := rfl
@[simp] theorem State.settle_inOff (e : ErrorCode) : (s.settle e).inOff = s.inOff := rfl
@[simp] theorem State.settle_typeIn (e : ErrorCode) : (s.settle e).typeIn = s.typeIn := rfl
@[simp] theorem State.settle_ctype (e : ErrorCode) : (s.settle e).ctype = s.ctype := rfl
@[simp] theorem State.settle_chType (e : ErrorCode) : (s.settle e).chType = s.chType := rfl
@[simp] theorem State.settle_length (e : ErrorCode) : (s.settle e).length = s.length := rfl
@[simp] theorem State.settle_crc (e : ErrorCode) : (s.settle e).crc = s.crc := rfl
@[simp] theorem State.settle_consumed (e : ErrorCode) : (s.settle e).consumed = s.consumed := rfl
@[simp] theorem State.settle_outLen (e : ErrorCode) : (s.settle e).outLen = s.outLen := rfl
@[simp] theorem State.settle_crcOut (e : ErrorCode) : (s.settle e).crcOut = s.crcOut := rfl
@[simp] theorem State.settle_input (e : ErrorCode) : (s.settle e).input = s.input := rfl
@[simp] theorem State.settle_data (e : ErrorCode) : (s.settle e).data = s.data := rfl
@[simp] theorem State.settle_out (e : ErrorCode) : (s.settle e).out = s.out := rfl
@[simp] theorem State.settle_dataBytes (e : ErrorCode) : (s.settle e).dataBytes = s.dataBytes := rfl
@[simp] theorem State.settle_pending (e : ErrorCode) : (s.settle e).pending = s.pending := rfl
@[simp] theorem State.settle_response (e : ErrorCode) : (s.settle e).response = s.response := rfl
@[simp] theorem State.settle_draws (e : ErrorCode) : (s.settle e).draws = s.draws + 1 := rfl

@[simp] theorem State.loadType_status (t : Word) : (s.loadType t).status = { s.status with typeValid := true } := rfl
@[simp] theorem State.loadType_inLen (t : Word) : (s.loadType t).inLen = s.inLen := rfl
@[simp] theorem State.loadType_inOff (t : Word) : (s.loadType t).inOff = s.inOff := rfl
@[simp] theorem State.loadType_typeIn (t : Word) : (s.loadType t).typeIn = s.typeIn := rfl
@[simp] theorem State.loadType_ctype (t : Word) : (s.loadType t).ctype = t := rfl
@[simp] theorem State.loadType_chType (t : Word) : (s.loadType t).chType = s.chType := rfl
@[simp] theorem State.loadType_length (t : Word) : (s.loadType t).length = s.length := rfl
@[simp] theorem State.loadType_crc (t : Word) : (s.loadType t).crc = s.crc := rfl
@[simp] theorem State.loadType_consumed (t : Word) : (s.loadType t).consumed = s.consumed := rfl
@[simp] theorem State.loadType_outLen (t : Word) : (s.loadType t).outLen = s.outLen := rfl
@[simp] theorem State.loadType_crcOut (t : Word) : (s.loadType t).crcOut = s.crcOut := rfl
@[simp] theorem State.loadType_input (t : Word) : (s.loadType t).input = s.input := rfl
@[simp] theorem State.loadType_data (t : Word) : (s.loadType t).data = s.data := rfl
@[simp] theorem State.loadType_out (t : Word) : (s.loadType t).out = s.out := rfl
@[simp] theorem State.loadType_dataBytes (t : Word) : (s.loadType t).dataBytes = s.dataBytes := rfl
@[simp] theorem State.loadType_pending (t : Word) : (s.loadType t).pending = s.pending := rfl
@[simp] theorem State.loadType_response (t : Word) : (s.loadType t).response = s.response := rfl
@[simp] theorem State.loadType_draws (t : Word) : (s.loadType t).draws = s.draws := rfl

@[simp] theorem State.installChunk_status (t : Word) (d : List Byte) (c : Word) : (s.installChunk t d c).status = { s.status with chunkValid := true, outValid := false, consumedValid := false } := rfl
@[simp] theorem State.installChunk_inLen (t : Word) (d : List Byte) (c : Word) : (s.installChunk t d c).inLen = s.inLen := rfl
@[simp] theorem State.installChunk_inOff (t : Word) (d : List Byte) (c : Word) : (s.installChunk t d c).inOff = s.inOff := rfl
@[simp] theorem State.installChunk_typeIn (t : Word) (d : List Byte) (c : Word) : (s.installChunk t d c).typeIn = s.typeIn := rfl
@[simp] theorem State.installChunk_ctype (t : Word) (d : List Byte) (c : Word) : (s.installChunk t d c).ctype = s.ctype := rfl
@[simp] theorem State.installChunk_chType (t : Word) (d : List Byte) (c : Word) : (s.installChunk t d c).chType = t := rfl
@[simp] theorem State.installChunk_length (t : Word) (d : List Byte) (c : Word) : (s.installChunk t d c).length = BitVec.ofNat 32 d.length := rfl
@[simp] theorem State.installChunk_crc (t : Word) (d : List Byte) (c : Word) : (s.installChunk t d c).crc = c := rfl
@[simp] theorem State.installChunk_consumed (t : Word) (d : List Byte) (c : Word) : (s.installChunk t d c).consumed = s.consumed := rfl
@[simp] theorem State.installChunk_outLen (t : Word) (d : List Byte) (c : Word) : (s.installChunk t d c).outLen = s.outLen := rfl
@[simp] theorem State.installChunk_crcOut (t : Word) (d : List Byte) (c : Word) : (s.installChunk t d c).crcOut = s.crcOut := rfl
@[simp] theorem State.installChunk_input (t : Word) (d : List Byte) (c : Word) : (s.installChunk t d c).input = s.input := rfl
@[simp] theorem State.installChunk_data (t : Word) (d : List Byte) (c : Word) : (s.installChunk t d c).data = s.data.putBytes 0 d := rfl
@[simp] theorem State.installChunk_out (t : Word) (d : List Byte) (c : Word) : (s.installChunk t d c).out = s.out := rfl
@[simp] theorem State.installChunk_dataBytes (t : Word) (d : List Byte) (c : Word) : (s.installChunk t d c).dataBytes = s.dataBytes := rfl
@[simp] theorem State.installChunk_pending (t : Word) (d : List Byte) (c : Word) : (s.installChunk t d c).pending = s.pending := rfl
@[simp] theorem State.installChunk_response (t : Word) (d : List Byte) (c : Word) : (s.installChunk t d c).response = s.response := rfl
@[simp] theorem State.installChunk_draws (t : Word) (d : List Byte) (c : Word) : (s.installChunk t d c).draws = s.draws := rfl

@[simp] theorem State.setConsumed_status (n : Nat) : (s.setConsumed n).status = { s.status with consumedValid := true } := rfl
@[simp] theorem State.setConsumed_inLen (n : Nat) : (s.setConsumed n).inLen = s.inLen := rfl
@[simp] theorem State.setConsumed_inOff (n : Nat) : (s.setConsumed n).inOff = s.inOff := rfl
@[simp] theorem State.setConsumed_typeIn (n : Nat) : (s.setConsumed n).typeIn = s.typeIn := rfl
@[simp] theorem State.setConsumed_ctype (n : Nat) : (s.setConsumed n).ctype = s.ctype := rfl
@[simp] theorem State.setConsumed_chType (n : Nat) : (s.setConsumed n).chType = s.chType := rfl
@[simp] theorem State.setConsumed_length (n : Nat) : (s.setConsumed n).length = s.length := rfl
@[simp] theorem State.setConsumed_crc (n : Nat) : (s.setConsumed n).crc = s.crc := rfl
@[simp] theorem State.setConsumed_consumed (n : Nat) : (s.setConsumed n).consumed = BitVec.ofNat 32 n := rfl
@[simp] theorem State.setConsumed_outLen (n : Nat) : (s.setConsumed n).outLen = s.outLen := rfl
@[simp] theorem State.setConsumed_crcOut (n : Nat) : (s.setConsumed n).crcOut = s.crcOut := rfl
@[simp] theorem State.setConsumed_input (n : Nat) : (s.setConsumed n).input = s.input := rfl
@[simp] theorem State.setConsumed_data (n : Nat) : (s.setConsumed n).data = s.data := rfl
@[simp] theorem State.setConsumed_out (n : Nat) : (s.setConsumed n).out = s.out := rfl
@[simp] theorem State.setConsumed_dataBytes (n : Nat) : (s.setConsumed n).dataBytes = s.dataBytes := rfl
@[simp] theorem State.setConsumed_pending (n : Nat) : (s.setConsumed n).pending = s.pending := rfl
@[simp] theorem State.setConsumed_response (n : Nat) : (s.setConsumed n).response = s.response := rfl
@[simp] theorem State.setConsumed_draws (n : Nat) : (s.setConsumed n).draws = s.draws := rfl

@[simp] theorem State.emit_status (b : List Byte) (n : Nat) : (s.emit b n).status = { s.status with outValid := true } := rfl
@[simp] theorem State.emit_inLen (b : List Byte) (n : Nat) : (s.emit b n).inLen = s.inLen := rfl
@[simp] theorem State.emit_inOff (b : List Byte) (n : Nat) : (s.emit b n).inOff = s.inOff := rfl
@[simp] theorem State.emit_typeIn (b : List Byte) (n : Nat) : (s.emit b n).typeIn = s.typeIn := rfl
@[simp] theorem State.emit_ctype (b : List Byte) (n : Nat) : (s.emit b n).ctype = s.ctype := rfl
@[simp] theorem State.emit_chType (b : List Byte) (n : Nat) : (s.emit b n).chType = s.chType := rfl
@[simp] theorem State.emit_length (b : List Byte) (n : Nat) : (s.emit b n).length = s.length := rfl
@[simp] theorem State.emit_crc (b : List Byte) (n : Nat) : (s.emit b n).crc = s.crc := rfl
@[simp] theorem State.emit_consumed (b : List Byte) (n : Nat) : (s.emit b n).consumed = s.consumed := rfl
@[simp] theorem State.emit_outLen (b : List Byte) (n : Nat) : (s.emit b n).outLen = BitVec.ofNat 32 n := rfl
@[simp] theorem State.emit_crcOut (b : List Byte) (n : Nat) : (s.emit b n).crcOut = s.crcOut := rfl
@[simp] theorem State.emit_input (b : List Byte) (n : Nat) : (s.emit b n).input = s.input := rfl
@[simp] theorem State.emit_data (b : List Byte) (n : Nat) : (s.emit b n).data = s.data := rfl
@[simp] theorem State.emit_out (b : List Byte) (n : Nat) : (s.emit b n).out = s.out.putBytes 0 b := rfl
@[simp] theorem State.emit_dataBytes (b : List Byte) (n : Nat) : (s.emit b n).dataBytes = s.dataBytes := rfl
@[simp] theorem State.emit_pending (b : List Byte) (n : Nat) : (s.emit b n).pending = s.pending := rfl
@[simp] theorem State.emit_response (b : List Byte) (n : Nat) : (s.emit b n).response = s.response := rfl
@[simp] theorem State.emit_draws (b : List Byte) (n : Nat) : (s.emit b n).draws = s.draws := rfl

@[simp] theorem State.setCrcOut_status (c : Word) : (s.setCrcOut c).status = { s.status with crcOutValid := true } := rfl
@[simp] theorem State.setCrcOut_inLen (c : Word) : (s.setCrcOut c).inLen = s.inLen := rfl
@[simp] theorem State.setCrcOut_inOff (c : Word) : (s.setCrcOut c).inOff = s.inOff := rfl
@[simp] theorem State.setCrcOut_typeIn (c : Word) : (s.setCrcOut c).typeIn = s.typeIn := rfl
@[simp] theorem State.setCrcOut_ctype (c : Word) : (s.setCrcOut c).ctype = s.ctype := rfl
@[simp] theorem State.setCrcOut_chType (c : Word) : (s.setCrcOut c).chType = s.chType := rfl
@[simp] theorem State.setCrcOut_length (c : Word) : (s.setCrcOut c).length = s.length := rfl
@[simp] theorem State.setCrcOut_crc (c : Word) : (s.setCrcOut c).crc = s.crc := rfl
@[simp] theorem State.setCrcOut_consumed (c : Word) : (s.setCrcOut c).consumed = s.consumed := rfl
@[simp] theorem State.setCrcOut_outLen (c : Word) : (s.setCrcOut c).outLen = s.outLen := rfl
@[simp] theorem State.setCrcOut_crcOut (c : Word) : (s.setCrcOut c).crcOut = c := rfl
@[simp] theorem State.setCrcOut_input (c : Word) : (s.setCrcOut c).input = s.input := rfl
@[simp] theorem State.setCrcOut_data (c : Word) : (s.setCrcOut c).data = s.data := rfl
@[simp] theorem State.setCrcOut_out (c : Word) : (s.setCrcOut c).out = s.out := rfl
@[simp] theorem State.setCrcOut_dataBytes (c : Word) : (s.setCrcOut c).dataBytes = s.dataBytes := rfl
@[simp] theorem State.setCrcOut_pending (c : Word) : (s.setCrcOut c).pending = s.pending := rfl
@[simp] theorem State.setCrcOut_response (c : Word) : (s.setCrcOut c).response = s.response := rfl
@[simp] theorem State.setCrcOut_draws (c : Word) : (s.setCrcOut c).draws = s.draws := rfl

@[simp] theorem State.setInLen_status (v : Word) : (s.setInLen v).status = s.status := rfl
@[simp] theorem State.setInLen_inLen (v : Word) : (s.setInLen v).inLen = v := rfl
@[simp] theorem State.setInLen_inOff (v : Word) : (s.setInLen v).inOff = s.inOff := rfl
@[simp] theorem State.setInLen_typeIn (v : Word) : (s.setInLen v).typeIn = s.typeIn := rfl
@[simp] theorem State.setInLen_ctype (v : Word) : (s.setInLen v).ctype = s.ctype := rfl
@[simp] theorem State.setInLen_chType (v : Word) : (s.setInLen v).chType = s.chType := rfl
@[simp] theorem State.setInLen_length (v : Word) : (s.setInLen v).length = s.length := rfl
@[simp] theorem State.setInLen_crc (v : Word) : (s.setInLen v).crc = s.crc := rfl
@[simp] theorem State.setInLen_consumed (v : Word) : (s.setInLen v).consumed = s.consumed := rfl
@[simp] theorem State.setInLen_outLen (v : Word) : (s.setInLen v).outLen = s.outLen := rfl
@[simp] theorem State.setInLen_crcOut (v : Word) : (s.setInLen v).crcOut = s.crcOut := rfl
@[simp] theorem State.setInLen_input (v : Word) : (s.setInLen v).input = s.input := rfl
@[simp] theorem State.setInLen_data (v : Word) : (s.setInLen v).data = s.data := rfl
@[simp] theorem State.setInLen_out (v : Word) : (s.setInLen v).out = s.out := rfl
@[simp] theorem State.setInLen_dataBytes (v : Word) : (s.setInLen v).dataBytes = s.dataBytes := rfl
@[simp] theorem State.setInLen_pending (v : Word) : (s.setInLen v).pending = s.pending := rfl
@[simp] theorem State.setInLen_response (v : Word) : (s.setInLen v).response = s.response := rfl
@[simp] theorem State.setInLen_draws (v : Word) : (s.setInLen v).draws = s.draws := rfl

@[simp] theorem State.setInOff_status (v : Word) : (s.setInOff v).status = s.status := rfl
@[simp] theorem State.setInOff_inLen (v : Word) : (s.setInOff v).inLen = s.inLen := rfl
@[simp] theorem State.setInOff_inOff (v : Word) : (s.setInOff v).inOff = v := rfl
@[simp] theorem State.setInOff_typeIn (v : Word) : (s.setInOff v).typeIn = s.typeIn := rfl
@[simp] theorem State.setInOff_ctype (v : Word) : (s.setInOff v).ctype = s.ctype := rfl
@[simp] theorem State.setInOff_chType (v : Word) : (s.setInOff v).chType = s.chType := rfl
@[simp] theorem State.setInOff_length (v : Word) : (s.setInOff v).length = s.length := rfl
@[simp] theorem State.setInOff_crc (v : Word) : (s.setInOff v).crc = s.crc := rfl
@[simp] theorem State.setInOff_consumed (v : Word) : (s.setInOff v).consumed = s.consumed := rfl
@[simp] theorem State.setInOff_outLen (v : Word) : (s.setInOff v).outLen = s.outLen := rfl
@[simp] theorem State.setInOff_crcOut (v : Word) : (s.setInOff v).crcOut = s.crcOut := rfl
@[simp] theorem State.setInOff_input (v : Word) : (s.setInOff v).input = s.input := rfl
@[simp] theorem State.setInOff_data (v : Word) : (s.setInOff v).data = s.data := rfl
@[simp] theorem State.setInOff_out (v : Word) : (s.setInOff v).out = s.out := rfl
@[simp] theorem State.setInOff_dataBytes (v : Word) : (s.setInOff v).dataBytes = s.dataBytes := rfl
@[simp] theorem State.setInOff_pending (v : Word) : (s.setInOff v).pending = s.pending := rfl
@[simp] theorem State.setInOff_response (v : Word) : (s.setInOff v).response = s.response := rfl
@[simp] theorem State.setInOff_draws (v : Word) : (s.setInOff v).draws = s.draws := rfl

@[simp] theorem State.setTypeIn_status (v : Word) : (s.setTypeIn v).status = s.status := rfl
@[simp] theorem State.setTypeIn_inLen (v : Word) : (s.setTypeIn v).inLen = s.inLen := rfl
@[simp] theorem State.setTypeIn_inOff (v : Word) : (s.setTypeIn v).inOff = s.inOff := rfl
@[simp] theorem State.setTypeIn_typeIn (v : Word) : (s.setTypeIn v).typeIn = v := rfl
@[simp] theorem State.setTypeIn_ctype (v : Word) : (s.setTypeIn v).ctype = s.ctype := rfl
@[simp] theorem State.setTypeIn_chType (v : Word) : (s.setTypeIn v).chType = s.chType := rfl
@[simp] theorem State.setTypeIn_length (v : Word) : (s.setTypeIn v).length = s.length := rfl
@[simp] theorem State.setTypeIn_crc (v : Word) : (s.setTypeIn v).crc = s.crc := rfl
@[simp] theorem State.setTypeIn_consumed (v : Word) : (s.setTypeIn v).consumed = s.consumed := rfl
@[simp] theorem State.setTypeIn_outLen (v : Word) : (s.setTypeIn v).outLen = s.outLen := rfl
@[simp] theorem State.setTypeIn_crcOut (v : Word) : (s.setTypeIn v).crcOut = s.crcOut := rfl
@[simp] theorem State.setTypeIn_input (v : Word) : (s.setTypeIn v).input = s.input := rfl
@[simp] theorem State.setTypeIn_data (v : Word) : (s.setTypeIn v).data = s.data := rfl
@[simp] theorem State.setTypeIn_out (v : Word) : (s.setTypeIn v).out = s.out := rfl
@[simp] theorem State.setTypeIn_dataBytes (v : Word) : (s.setTypeIn v).dataBytes = s.dataBytes := rfl
@[simp] theorem State.setTypeIn_pending (v : Word) : (s.setTypeIn v).pending = s.pending := rfl
@[simp] theorem State.setTypeIn_response (v : Word) : (s.setTypeIn v).response = s.response := rfl
@[simp] theorem State.setTypeIn_draws (v : Word) : (s.setTypeIn v).draws = s.draws := rfl

@[simp] theorem State.writeInput_status (i : Nat) (b : Byte) : (s.writeInput i b).status = s.status := rfl
@[simp] theorem State.writeInput_inLen (i : Nat) (b : Byte) : (s.writeInput i b).inLen = s.inLen := rfl
@[simp] theorem State.writeInput_inOff (i : Nat) (b : Byte) : (s.writeInput i b).inOff = s.inOff := rfl
@[simp] theorem State.writeInput_typeIn (i : Nat) (b : Byte) : (s.writeInput i b).typeIn = s.typeIn := rfl
@[simp] theorem State.writeInput_ctype (i : Nat) (b : Byte) : (s.writeInput i b).ctype = s.ctype := rfl
@[simp] theorem State.writeInput_chType (i : Nat) (b : Byte) : (s.writeInput i b).chType = s.chType := rfl
@[simp] theorem State.writeInput_length (i : Nat) (b : Byte) : (s.writeInput i b).length = s.length := rfl
@[simp] theorem State.writeInput_crc (i : Nat) (b : Byte) : (s.writeInput i b).crc = s.crc := rfl
@[simp] theorem State.writeInput_consumed (i : Nat) (b : Byte) : (s.writeInput i b).consumed = s.consumed := rfl
@[simp] theorem State.writeInput_outLen (i : Nat) (b : Byte) : (s.writeInput i b).outLen = s.outLen := rfl
@[simp] theorem State.writeInput_crcOut (i : Nat) (b : Byte) : (s.writeInput i b).crcOut = s.crcOut := rfl
@[simp] theorem State.writeInput_input (i : Nat) (b : Byte) : (s.writeInput i b).input = s.input.put i b := rfl
@[simp] theorem State.writeInput_data (i : Nat) (b : Byte) : (s.writeInput i b).data = s.data := rfl
@[simp] theorem State.writeInput_out (i : Nat) (b : Byte) : (s.writeInput i b).out = s.out := rfl
@[simp] theorem State.writeInput_dataBytes (i : Nat) (b : Byte) : (s.writeInput i b).dataBytes = s.dataBytes := rfl
@[simp] theorem State.writeInput_pending (i : Nat) (b : Byte) : (s.writeInput i b).pending = s.pending := rfl
@[simp] theorem State.writeInput_response (i : Nat) (b : Byte) : (s.writeInput i b).response = s.response := rfl
@[simp] theorem State.writeInput_draws (i : Nat) (b : Byte) : (s.writeInput i b).draws = s.draws := rfl

@[simp] theorem State.answer_status (r : Response) : (s.answer r).status = s.status := rfl
@[simp] theorem State.answer_inLen (r : Response) : (s.answer r).inLen = s.inLen := rfl
@[simp] theorem State.answer_inOff (r : Response) : (s.answer r).inOff = s.inOff := rfl
@[simp] theorem State.answer_typeIn (r : Response) : (s.answer r).typeIn = s.typeIn := rfl
@[simp] theorem State.answer_ctype (r : Response) : (s.answer r).ctype = s.ctype := rfl
@[simp] theorem State.answer_chType (r : Response) : (s.answer r).chType = s.chType := rfl
@[simp] theorem State.answer_length (r : Response) : (s.answer r).length = s.length := rfl
@[simp] theorem State.answer_crc (r : Response) : (s.answer r).crc = s.crc := rfl
@[simp] theorem State.answer_consumed (r : Response) : (s.answer r).consumed = s.consumed := rfl
@[simp] theorem State.answer_outLen (r : Response) : (s.answer r).outLen = s.outLen := rfl
@[simp] theorem State.answer_crcOut (r : Response) : (s.answer r).crcOut = s.crcOut := rfl
@[simp] theorem State.answer_input (r : Response) : (s.answer r).input = s.input := rfl
@[simp] theorem State.answer_data (r : Response) : (s.answer r).data = s.data := rfl
@[simp] theorem State.answer_out (r : Response) : (s.answer r).out = s.out := rfl
@[simp] theorem State.answer_dataBytes (r : Response) : (s.answer r).dataBytes = s.dataBytes := rfl
@[simp] theorem State.answer_pending (r : Response) : (s.answer r).pending = s.pending := rfl
@[simp] theorem State.answer_response (r : Response) : (s.answer r).response = r := rfl
@[simp] theorem State.answer_draws (r : Response) : (s.answer r).draws = s.draws + 1 := rfl

@[simp] theorem State.take_status (rest : List Transaction) : (s.take rest).status = s.status := rfl
@[simp] theorem State.take_inLen (rest : List Transaction) : (s.take rest).inLen = s.inLen := rfl
@[simp] theorem State.take_inOff (rest : List Transaction) : (s.take rest).inOff = s.inOff := rfl
@[simp] theorem State.take_typeIn (rest : List Transaction) : (s.take rest).typeIn = s.typeIn := rfl
@[simp] theorem State.take_ctype (rest : List Transaction) : (s.take rest).ctype = s.ctype := rfl
@[simp] theorem State.take_chType (rest : List Transaction) : (s.take rest).chType = s.chType := rfl
@[simp] theorem State.take_length (rest : List Transaction) : (s.take rest).length = s.length := rfl
@[simp] theorem State.take_crc (rest : List Transaction) : (s.take rest).crc = s.crc := rfl
@[simp] theorem State.take_consumed (rest : List Transaction) : (s.take rest).consumed = s.consumed := rfl
@[simp] theorem State.take_outLen (rest : List Transaction) : (s.take rest).outLen = s.outLen := rfl
@[simp] theorem State.take_crcOut (rest : List Transaction) : (s.take rest).crcOut = s.crcOut := rfl
@[simp] theorem State.take_input (rest : List Transaction) : (s.take rest).input = s.input := rfl
@[simp] theorem State.take_data (rest : List Transaction) : (s.take rest).data = s.data := rfl
@[simp] theorem State.take_out (rest : List Transaction) : (s.take rest).out = s.out := rfl
@[simp] theorem State.take_dataBytes (rest : List Transaction) : (s.take rest).dataBytes = s.dataBytes := rfl
@[simp] theorem State.take_pending (rest : List Transaction) : (s.take rest).pending = rest := rfl
@[simp] theorem State.take_response (rest : List Transaction) : (s.take rest).response = .nothing := rfl
@[simp] theorem State.take_draws (rest : List Transaction) : (s.take rest).draws = s.draws := rfl

@[simp] theorem State.restart_status : s.restart.status = State.reset.status := rfl
@[simp] theorem State.restart_inLen : s.restart.inLen = State.reset.inLen := rfl
@[simp] theorem State.restart_inOff : s.restart.inOff = State.reset.inOff := rfl
@[simp] theorem State.restart_typeIn : s.restart.typeIn = State.reset.typeIn := rfl
@[simp] theorem State.restart_ctype : s.restart.ctype = State.reset.ctype := rfl
@[simp] theorem State.restart_chType : s.restart.chType = State.reset.chType := rfl
@[simp] theorem State.restart_length : s.restart.length = State.reset.length := rfl
@[simp] theorem State.restart_crc : s.restart.crc = State.reset.crc := rfl
@[simp] theorem State.restart_consumed : s.restart.consumed = State.reset.consumed := rfl
@[simp] theorem State.restart_outLen : s.restart.outLen = State.reset.outLen := rfl
@[simp] theorem State.restart_crcOut : s.restart.crcOut = State.reset.crcOut := rfl
@[simp] theorem State.restart_input : s.restart.input = State.reset.input := rfl
@[simp] theorem State.restart_data : s.restart.data = State.reset.data := rfl
@[simp] theorem State.restart_out : s.restart.out = State.reset.out := rfl
@[simp] theorem State.restart_dataBytes : s.restart.dataBytes = s.dataBytes := rfl
@[simp] theorem State.restart_pending : s.restart.pending = s.pending := rfl
@[simp] theorem State.restart_response : s.restart.response = State.reset.response := rfl
@[simp] theorem State.restart_draws : s.restart.draws = s.draws := rfl

@[simp] theorem State.withCommand_status (w : Word) : (s.withCommand w).status = s.status := rfl
@[simp] theorem State.withCommand_inLen (w : Word) : (s.withCommand w).inLen = s.inLen := rfl
@[simp] theorem State.withCommand_inOff (w : Word) : (s.withCommand w).inOff = s.inOff := rfl
@[simp] theorem State.withCommand_typeIn (w : Word) : (s.withCommand w).typeIn = s.typeIn := rfl
@[simp] theorem State.withCommand_ctype (w : Word) : (s.withCommand w).ctype = s.ctype := rfl
@[simp] theorem State.withCommand_chType (w : Word) : (s.withCommand w).chType = s.chType := rfl
@[simp] theorem State.withCommand_length (w : Word) : (s.withCommand w).length = s.length := rfl
@[simp] theorem State.withCommand_crc (w : Word) : (s.withCommand w).crc = s.crc := rfl
@[simp] theorem State.withCommand_consumed (w : Word) : (s.withCommand w).consumed = s.consumed := rfl
@[simp] theorem State.withCommand_outLen (w : Word) : (s.withCommand w).outLen = s.outLen := rfl
@[simp] theorem State.withCommand_crcOut (w : Word) : (s.withCommand w).crcOut = s.crcOut := rfl
@[simp] theorem State.withCommand_input (w : Word) : (s.withCommand w).input = s.input := rfl
@[simp] theorem State.withCommand_data (w : Word) : (s.withCommand w).data = s.data := rfl
@[simp] theorem State.withCommand_out (w : Word) : (s.withCommand w).out = s.out := rfl
@[simp] theorem State.withCommand_dataBytes (w : Word) : (s.withCommand w).dataBytes = s.dataBytes := rfl
@[simp] theorem State.withCommand_pending (w : Word) : (s.withCommand w).pending = regWrite 0x00 w :: s.pending := rfl
@[simp] theorem State.withCommand_response (w : Word) : (s.withCommand w).response = s.response := rfl
@[simp] theorem State.withCommand_draws (w : Word) : (s.withCommand w).draws = s.draws := rfl

@[simp] theorem State.settle_inBytes (e : ErrorCode) : (s.settle e).inBytes = s.inBytes := rfl
@[simp] theorem State.settle_outBytes (e : ErrorCode) : (s.settle e).outBytes = s.outBytes := rfl
@[simp] theorem State.loadType_inBytes (t : Word) : (s.loadType t).inBytes = s.inBytes := rfl
@[simp] theorem State.loadType_outBytes (t : Word) : (s.loadType t).outBytes = s.outBytes := rfl
@[simp] theorem State.installChunk_inBytes (t : Word) (d : List Byte) (c : Word) : (s.installChunk t d c).inBytes = s.inBytes := rfl
@[simp] theorem State.installChunk_outBytes (t : Word) (d : List Byte) (c : Word) : (s.installChunk t d c).outBytes = s.outBytes := rfl
@[simp] theorem State.setConsumed_inBytes (n : Nat) : (s.setConsumed n).inBytes = s.inBytes := rfl
@[simp] theorem State.setConsumed_outBytes (n : Nat) : (s.setConsumed n).outBytes = s.outBytes := rfl
@[simp] theorem State.emit_inBytes (b : List Byte) (n : Nat) : (s.emit b n).inBytes = s.inBytes := rfl
@[simp] theorem State.emit_outBytes (b : List Byte) (n : Nat) : (s.emit b n).outBytes = s.outBytes := rfl
@[simp] theorem State.setCrcOut_inBytes (c : Word) : (s.setCrcOut c).inBytes = s.inBytes := rfl
@[simp] theorem State.setCrcOut_outBytes (c : Word) : (s.setCrcOut c).outBytes = s.outBytes := rfl
@[simp] theorem State.setInLen_inBytes (v : Word) : (s.setInLen v).inBytes = s.inBytes := rfl
@[simp] theorem State.setInLen_outBytes (v : Word) : (s.setInLen v).outBytes = s.outBytes := rfl
@[simp] theorem State.setInOff_inBytes (v : Word) : (s.setInOff v).inBytes = s.inBytes := rfl
@[simp] theorem State.setInOff_outBytes (v : Word) : (s.setInOff v).outBytes = s.outBytes := rfl
@[simp] theorem State.setTypeIn_inBytes (v : Word) : (s.setTypeIn v).inBytes = s.inBytes := rfl
@[simp] theorem State.setTypeIn_outBytes (v : Word) : (s.setTypeIn v).outBytes = s.outBytes := rfl
@[simp] theorem State.writeInput_inBytes (i : Nat) (b : Byte) : (s.writeInput i b).inBytes = s.inBytes := rfl
@[simp] theorem State.writeInput_outBytes (i : Nat) (b : Byte) : (s.writeInput i b).outBytes = s.outBytes := rfl
@[simp] theorem State.answer_inBytes (r : Response) : (s.answer r).inBytes = s.inBytes := rfl
@[simp] theorem State.answer_outBytes (r : Response) : (s.answer r).outBytes = s.outBytes := rfl
@[simp] theorem State.take_inBytes (rest : List Transaction) : (s.take rest).inBytes = s.inBytes := rfl
@[simp] theorem State.take_outBytes (rest : List Transaction) : (s.take rest).outBytes = s.outBytes := rfl
@[simp] theorem State.restart_inBytes : s.restart.inBytes = s.inBytes := rfl
@[simp] theorem State.restart_outBytes : s.restart.outBytes = s.outBytes := rfl
@[simp] theorem State.withCommand_inBytes (w : Word) : (s.withCommand w).inBytes = s.inBytes := rfl
@[simp] theorem State.withCommand_outBytes (w : Word) : (s.withCommand w).outBytes = s.outBytes := rfl

end Sys2Proof.Machine
end

