-- ==== Sys2Proof/Laws/Exec.lean ====
section
/-! SUPPORT. What each command can do, said once: if it answers a next state, one of the listed cases holds, with its
guard. Later proofs cite these and do not unfold a meaning. -/

namespace Sys2Proof.Machine

theorem raise_eq_next {e : ErrorCode} {s t : State} (h : raise e s = .next t) : t = s.settle e := by
  cases h; rfl

theorem complete_eq_next {s t : State} (h : complete s = .next t) : t = s.settle .ok := by
  cases h; rfl

/-- A command that reads the window: it reports CapacityExceeded, or goes on inside the window. -/
theorem withWindow_cases {s t : State} {k : Outcome} (h : withWindow s k = .next t) :
    (s.windowInRange = false ∧ t = s.settle .capacityExceeded) ∨ (s.windowInRange = true ∧ k = .next t) := by
  cases hw : s.windowInRange with
  | false => exact .inl ⟨rfl, raise_eq_next ((withWindow_of_outside hw).symm.trans h)⟩
  | true => exact .inr ⟨rfl, (withWindow_of_inRange hw).symm.trans h⟩

/-- A command that needs the chunk: it reports NotLoaded, or goes on with the chunk. -/
theorem withChunk_cases {s t : State} {k : Outcome} (h : withChunk s k = .next t) :
    (s.status.chunkValid = false ∧ t = s.settle .notLoaded) ∨ (s.status.chunkValid = true ∧ k = .next t) := by
  cases hw : s.status.chunkValid with
  | false => exact .inl ⟨rfl, raise_eq_next ((withChunk_of_none hw).symm.trans h)⟩
  | true => exact .inr ⟨rfl, (withChunk_of_valid hw).symm.trans h⟩

/-- A command that reads the payload and answers has a payload inside DATA. -/
theorem withPayload_cases {s t : State} {k : List Byte → Outcome} (h : withPayload s k = .next t) :
    s.payloadInData = true ∧ k s.payload = .next t := by
  cases hw : s.payloadInData with
  | false => simp [withPayload, hw] at h
  | true => exact ⟨rfl, (withPayload_of_inData hw).symm.trans h⟩

/-- CT_FROM_BYTES (R109) has one case. -/
theorem execCtFromBytes_eq (s : State) : execCtFromBytes s = .next ((s.loadType s.typeIn).settle .ok) := rfl

/-- CT_FROM_STRING (R110). -/
theorem execCtFromString_cases {s t : State} (h : execCtFromString s = .next t) :
    (s.windowInRange = false ∧ t = s.settle .capacityExceeded) ∨
    (s.windowInRange = true ∧ ¬ (s.windowSize = 4 ∧ s.window.all isLetter = true) ∧
      t = s.settle .invalidChunkType) ∨
    (s.windowInRange = true ∧ s.windowSize = 4 ∧ s.window.all isLetter = true ∧
      t = (s.loadType (be32 s.window)).settle .ok) := by
  obtain h | ⟨hr, h⟩ := withWindow_cases h
  · exact .inl h
  · right
    split at h
    · rename_i hn
      exact .inl ⟨hr, fun hc => hn hc.1, raise_eq_next h⟩
    · rename_i hn
      split at h
      · exact .inr ⟨hr, not_not.mp hn, ‹_›, complete_eq_next h⟩
      · exact .inl ⟨hr, fun hc => absurd hc.2 ‹_›, raise_eq_next h⟩

/-- CT_FROM_CHUNK (R111). -/
theorem execCtFromChunk_cases {s t : State} (h : execCtFromChunk s = .next t) :
    (s.status.chunkValid = false ∧ t = s.settle .notLoaded) ∨
    (s.status.chunkValid = true ∧ t = (s.loadType s.chType).settle .ok) := by
  obtain h | ⟨hr, h⟩ := withChunk_cases h
  · exact .inl h
  · exact .inr ⟨hr, complete_eq_next h⟩

/-- CHUNK_NEW (R123). -/
theorem execChunkNew_cases {s t : State} (h : execChunkNew s = .next t) :
    (s.windowInRange = false ∧ t = s.settle .capacityExceeded) ∨
    (s.windowInRange = true ∧ s.status.typeValid = false ∧ t = s.settle .notLoaded) ∨
    (s.windowInRange = true ∧ s.status.typeValid = true ∧ s.dataBytes.val < s.windowSize ∧
      t = s.settle .capacityExceeded) ∨
    (s.windowInRange = true ∧ s.status.typeValid = true ∧ s.windowSize ≤ s.dataBytes.val ∧
      t = (s.installChunk s.ctype s.window (chunkCrc s.ctype s.window)).settle .ok) := by
  obtain h | ⟨hr, h⟩ := withWindow_cases h
  · exact .inl h
  · right
    split at h
    · rename_i hb
      exact .inl ⟨hr, by simpa using hb, raise_eq_next h⟩
    · rename_i hb
      have hv : s.status.typeValid = true := by simpa using hb
      right
      split at h
      · exact .inl ⟨hr, hv, ‹_›, raise_eq_next h⟩
      · exact .inr ⟨hr, hv, by omega, complete_eq_next h⟩

/-- The chunk CHUNK_PARSE installs (R124). -/
def State.parsed (s : State) : State :=
  (s.installChunk s.frameType s.framePayload s.frameCrc).setConsumed (12 + s.frameLength)

/-- CHUNK_PARSE (R124). -/
theorem execChunkParse_cases {s t : State} (h : execChunkParse s = .next t) :
    (s.windowInRange = false ∧ t = s.settle .capacityExceeded) ∨
    (s.windowInRange = true ∧ s.windowSize < 12 ∧ t = s.settle .truncatedInput) ∨
    (s.windowInRange = true ∧ 12 ≤ s.windowSize ∧ s.dataBytes.val < s.frameLength ∧
      t = s.settle .capacityExceeded) ∨
    (s.windowInRange = true ∧ 12 ≤ s.windowSize ∧ s.frameLength ≤ s.dataBytes.val ∧
      s.windowSize < 12 + s.frameLength ∧ t = s.settle .truncatedInput) ∨
    (s.windowInRange = true ∧ s.frameLength ≤ s.dataBytes.val ∧ 12 + s.frameLength ≤ s.windowSize ∧
      s.frameComputedCrc ≠ s.frameCrc ∧ t = s.settle .checksumMismatch) ∨
    (s.windowInRange = true ∧ s.frameLength ≤ s.dataBytes.val ∧ 12 + s.frameLength ≤ s.windowSize ∧
      s.frameComputedCrc = s.frameCrc ∧ t = s.parsed.settle .ok) := by
  obtain h | ⟨hr, h⟩ := withWindow_cases h
  · exact .inl h
  · right
    split at h
    · exact .inl ⟨hr, ‹_›, raise_eq_next h⟩
    · right
      split at h
      · exact .inl ⟨hr, by omega, ‹_›, raise_eq_next h⟩
      · right
        split at h
        · exact .inl ⟨hr, by omega, by omega, ‹_›, raise_eq_next h⟩
        · right
          split at h
          · exact .inl ⟨hr, by omega, by omega, ‹_›, raise_eq_next h⟩
          · exact .inr ⟨hr, by omega, by omega, not_not.mp ‹_›, complete_eq_next h⟩

/-- CHUNK_PARSE succeeds when its five checks pass. -/
theorem execChunkParse_of_checks {s : State} (hr : s.windowInRange = true)
    (hl : s.frameLength ≤ s.dataBytes.val) (hn : 12 + s.frameLength ≤ s.windowSize)
    (hc : s.frameComputedCrc = s.frameCrc) : execChunkParse s = .next (s.parsed.settle .ok) := by
  rw [execChunkParse, withWindow_of_inRange hr, if_neg (by omega), if_neg (by omega), if_neg (by omega),
    if_neg (not_not.mpr hc)]
  rfl

/-- CHUNK_PARSE reports ChecksumMismatch when only the last check fails. -/
theorem execChunkParse_of_mismatch {s : State} (hr : s.windowInRange = true)
    (hl : s.frameLength ≤ s.dataBytes.val) (hn : 12 + s.frameLength ≤ s.windowSize)
    (hc : s.frameComputedCrc ≠ s.frameCrc) : execChunkParse s = .next (s.settle .checksumMismatch) := by
  rw [execChunkParse, withWindow_of_inRange hr, if_neg (by omega), if_neg (by omega), if_neg (by omega),
    if_pos hc]
  rfl

/-- CHUNK_SERIALIZE (R127). -/
theorem execChunkSerialize_cases {s t : State} (h : execChunkSerialize s = .next t) :
    (s.status.chunkValid = false ∧ t = s.settle .notLoaded) ∨
    (s.status.chunkValid = true ∧ s.payloadInData = true ∧
      t = (s.emit (frameBytes s.length s.chType s.payload s.crc) (12 + s.length.toNat)).settle .ok) := by
  obtain h | ⟨hr, h⟩ := withChunk_cases h
  · exact .inl h
  · obtain ⟨hp, h⟩ := withPayload_cases h
    exact .inr ⟨hr, hp, complete_eq_next h⟩

/-- CHUNK_SERIALIZE succeeds with a chunk whose payload lies inside DATA. -/
theorem execChunkSerialize_of_chunk {s : State} (hv : s.status.chunkValid = true) (hp : s.payloadInData = true) :
    execChunkSerialize s =
      .next ((s.emit (frameBytes s.length s.chType s.payload s.crc) (12 + s.length.toNat)).settle .ok) := by
  rw [execChunkSerialize, withChunk_of_valid hv, withPayload_of_inData hp]
  rfl

/-- CHUNK_UTF8 (R132). -/
theorem execChunkUtf8_cases {s t : State} (h : execChunkUtf8 s = .next t) :
    (s.status.chunkValid = false ∧ t = s.settle .notLoaded) ∨
    (s.status.chunkValid = true ∧ s.payloadInData = true ∧ utf8Valid s.payload = false ∧
      t = s.settle .invalidUtf8) ∨
    (s.status.chunkValid = true ∧ s.payloadInData = true ∧ utf8Valid s.payload = true ∧ t = s.settle .ok) := by
  obtain h | ⟨hr, h⟩ := withChunk_cases h
  · exact .inl h
  · obtain ⟨hp, h⟩ := withPayload_cases h
    right
    split at h
    · exact .inr ⟨hr, hp, ‹_›, complete_eq_next h⟩
    · rename_i hb
      exact .inl ⟨hr, hp, by simpa using hb, raise_eq_next h⟩

/-- CRC_COMPUTE (R94). -/
theorem execCrcCompute_cases {s t : State} (h : execCrcCompute s = .next t) :
    (s.windowInRange = false ∧ t = s.settle .capacityExceeded) ∨
    (s.windowInRange = true ∧ t = (s.setCrcOut (crc32 s.window)).settle .ok) := by
  obtain h | ⟨hr, h⟩ := withWindow_cases h
  · exact .inl h
  · exact .inr ⟨hr, complete_eq_next h⟩

/-- What a successful command has written, before ERR (R49). -/
inductive Wrote (s : State) : Instr → State → Prop where
  | fromBytes : Wrote s .ctFromBytes (s.loadType s.typeIn)
  | fromString (hr : s.windowInRange = true) (hn : s.windowSize = 4) (hl : s.window.all isLetter = true) :
      Wrote s .ctFromString (s.loadType (be32 s.window))
  | fromChunk (hv : s.status.chunkValid = true) : Wrote s .ctFromChunk (s.loadType s.chType)
  | new (hr : s.windowInRange = true) (hv : s.status.typeValid = true) (hn : s.windowSize ≤ s.dataBytes.val) :
      Wrote s .chunkNew (s.installChunk s.ctype s.window (chunkCrc s.ctype s.window))
  | parse (hr : s.windowInRange = true) (hl : s.frameLength ≤ s.dataBytes.val)
      (hn : 12 + s.frameLength ≤ s.windowSize) (hc : s.frameComputedCrc = s.frameCrc) :
      Wrote s .chunkParse s.parsed
  | serialize (hv : s.status.chunkValid = true) (hp : s.payloadInData = true) :
      Wrote s .chunkSerialize
        (s.emit (frameBytes s.length s.chType s.payload s.crc) (12 + s.length.toNat))
  | utf8 (hv : s.status.chunkValid = true) (hp : s.payloadInData = true) (hu : utf8Valid s.payload = true) :
      Wrote s .chunkUtf8 s
  | crc (hr : s.windowInRange = true) : Wrote s .crcCompute (s.setCrcOut (crc32 s.window))

/-- The errors each command can raise (R172). -/
def Instr.raises : Instr → List ErrorCode
  | .ctFromBytes => []
  | .ctFromString => [.capacityExceeded, .invalidChunkType]
  | .ctFromChunk => [.notLoaded]
  | .chunkNew => [.capacityExceeded, .notLoaded]
  | .chunkParse => [.capacityExceeded, .truncatedInput, .checksumMismatch]
  | .chunkSerialize => [.notLoaded]
  | .chunkUtf8 => [.notLoaded, .invalidUtf8]
  | .crcCompute => [.capacityExceeded]

/-- Every command either raises one of its errors, or writes its state and succeeds (R170). -/
theorem exec_cases {i : Instr} {s t : State} (h : exec i s = .next t) :
    (∃ e ∈ Instr.raises i, t = s.settle e) ∨ (∃ u, Wrote s i u ∧ t = u.settle .ok) := by
  cases i with
  | ctFromBytes => exact .inr ⟨_, .fromBytes, complete_eq_next h⟩
  | ctFromString =>
    obtain ⟨_, h⟩ | ⟨_, _, h⟩ | ⟨hr, hn, hl, h⟩ := execCtFromString_cases h
    · exact .inl ⟨_, by simp [Instr.raises], h⟩
    · exact .inl ⟨_, by simp [Instr.raises], h⟩
    · exact .inr ⟨_, .fromString hr hn hl, h⟩
  | ctFromChunk =>
    obtain ⟨_, h⟩ | ⟨hv, h⟩ := execCtFromChunk_cases h
    · exact .inl ⟨_, by simp [Instr.raises], h⟩
    · exact .inr ⟨_, .fromChunk hv, h⟩
  | chunkNew =>
    obtain ⟨_, h⟩ | ⟨_, _, h⟩ | ⟨_, _, _, h⟩ | ⟨hr, hv, hn, h⟩ := execChunkNew_cases h
    · exact .inl ⟨_, by simp [Instr.raises], h⟩
    · exact .inl ⟨_, by simp [Instr.raises], h⟩
    · exact .inl ⟨_, by simp [Instr.raises], h⟩
    · exact .inr ⟨_, .new hr hv hn, h⟩
  | chunkParse =>
    obtain ⟨_, h⟩ | ⟨_, _, h⟩ | ⟨_, _, _, h⟩ | ⟨_, _, _, _, h⟩ | ⟨_, _, _, _, h⟩ | ⟨hr, hl, hn, hc, h⟩ :=
      execChunkParse_cases h
    · exact .inl ⟨_, by simp [Instr.raises], h⟩
    · exact .inl ⟨_, by simp [Instr.raises], h⟩
    · exact .inl ⟨_, by simp [Instr.raises], h⟩
    · exact .inl ⟨_, by simp [Instr.raises], h⟩
    · exact .inl ⟨_, by simp [Instr.raises], h⟩
    · exact .inr ⟨_, .parse hr hl hn hc, h⟩
  | chunkSerialize =>
    obtain ⟨_, h⟩ | ⟨hv, hp, h⟩ := execChunkSerialize_cases h
    · exact .inl ⟨_, by simp [Instr.raises], h⟩
    · exact .inr ⟨_, .serialize hv hp, h⟩
  | chunkUtf8 =>
    obtain ⟨_, h⟩ | ⟨_, _, _, h⟩ | ⟨hv, hp, hu, h⟩ := execChunkUtf8_cases h
    · exact .inl ⟨_, by simp [Instr.raises], h⟩
    · exact .inl ⟨_, by simp [Instr.raises], h⟩
    · exact .inr ⟨_, .utf8 hv hp hu, h⟩
  | crcCompute =>
    obtain ⟨_, h⟩ | ⟨hr, h⟩ := execCrcCompute_cases h
    · exact .inl ⟨_, by simp [Instr.raises], h⟩
    · exact .inr ⟨_, .crc hr, h⟩

/-- An error a command raises is not reported as success. -/
theorem code_ne_zero_of_raises {i : Instr} {e : ErrorCode} (h : e ∈ Instr.raises i) : e.code ≠ 0 := by
  cases i <;> simp [Instr.raises] at h <;> rcases h with rfl | rfl | rfl <;> decide

/-- No command is refused. -/
theorem exec_not_refused (i : Instr) (s : State) (r : Refusal) : exec i s ≠ .refused r := by
  cases i <;>
    simp only [exec, execCtFromBytes, execCtFromString, execCtFromChunk, execChunkNew, execChunkParse,
      execChunkSerialize, execChunkUtf8, execCrcCompute, withWindow, withChunk, withPayload, raise, complete,
      ne_eq] <;>
    (repeat' split) <;> simp

/-- A command faults only for a chunk whose LENGTH exceeds DATA_BYTES. -/
theorem exec_fault_cases {i : Instr} {s : State} {f : Fault} (h : exec i s = .fault f) :
    s.status.chunkValid = true ∧ s.payloadInData = false := by
  cases i <;>
    simp only [exec, execCtFromBytes, execCtFromString, execCtFromChunk, execChunkNew, execChunkParse,
      execChunkSerialize, execChunkUtf8, execCrcCompute, withWindow, withChunk, withPayload, raise, complete] at h <;>
    (repeat' split at h) <;> simp_all

end Sys2Proof.Machine
end

