-- ==== Sys2Proof/Laws/Flags.lean ====
section
/-! SUPPORT. The bits of a STATUS or PROPS word (R24, R108). -/

namespace Sys2Proof.Machine

/-- A one-bit field holds its flag at its bit and nothing elsewhere. -/
theorem flagAt_getLsbD (b : Bool) (i j : Nat) :
    (flagAt b i).getLsbD j = (decide (j < 32) && decide (j = i) && b) := by
  unfold flagAt
  simp only [BitVec.getLsbD_shiftLeft, BitVec.getLsbD_setWidth, BitVec.getLsbD_ofBool]
  by_cases h1 : j < i
  · have : j ≠ i := by omega
    simp [h1, this]
  · by_cases h2 : j = i
    · subst h2
      by_cases h3 : j < 32 <;> simp [h3]
    · have : j - i ≠ 0 := by omega
      simp [h1, h2, this]

/-- The bits of STATUS. -/
theorem Status.word_getLsbD (st : Status) (j : Nat) :
    st.word.getLsbD j = (decide (j < 32) &&
      (st.err.getLsbD j || (decide (j = 8) && st.typeValid) || (decide (j = 9) && st.chunkValid) ||
        (decide (j = 10) && st.outValid) || (decide (j = 11) && st.crcOutValid) ||
        (decide (j = 12) && st.consumedValid))) := by
  unfold Status.word
  simp only [BitVec.getLsbD_or, flagAt_getLsbD, BitVec.getLsbD_setWidth, Bool.and_assoc]
  cases decide (j < 32) <;> simp

/-- The bits of PROPS. -/
theorem props_getLsbD (t : Word) (j : Nat) :
    (props t).getLsbD j = (decide (j < 32) &&
      ((decide (j = 0) && critical t) || (decide (j = 1) && isPublic t) || (decide (j = 2) && reservedValid t) ||
        (decide (j = 3) && safeToCopy t) || (decide (j = 4) && typeIsValid t) || (decide (j = 8) && letterAt t 0) ||
        (decide (j = 9) && letterAt t 1) || (decide (j = 10) && letterAt t 2) ||
        (decide (j = 11) && letterAt t 3))) := by
  unfold props
  simp only [BitVec.getLsbD_or, flagAt_getLsbD, Bool.and_assoc]
  cases decide (j < 32) <;> simp

/-- The property bit of byte `i` is bit `29 - 8i` of the packed type (R101). -/
theorem propertyBit_eq (t : Word) {i : Nat} (h : i < 4) : propertyBit t i = t.getLsbD (29 - 8 * i) := by
  unfold propertyBit packedByte
  rw [BitVec.getLsbD_extractLsb']
  simp only [show (5 : Nat) < 8 by omega, decide_true, Bool.true_and]
  congr 1
  omega

end Sys2Proof.Machine
end

