-- ==== Sys2Proof/Laws/HostInterface.lean ====
section
/-! SUPPORT. What a transaction and a step can do, said once (R150 to R161). -/

namespace Sys2Proof.Machine

/-- A CMD write runs the command its word decodes to, or reports IllegalCommand (R152). -/
theorem runCommand_cases {w : Word} {s t : State} (h : runCommand w s = .next t) :
    (∃ i, decode w = .ok i ∧ exec i s = .next t) ∨ ((∃ e, decode w = .error e) ∧ t = s.settle .illegalCommand) := by
  unfold runCommand at h
  split at h
  · exact .inl ⟨_, ‹_›, h⟩
  · exact .inr ⟨⟨_, ‹_›⟩, raise_eq_next h⟩

/-- A register access that answers has a register behind it. -/
theorem withRegister_cases {off width : Nat} {k : Reg → Outcome} {t : State} (h : withRegister off width k = .next t) :
    ∃ r : Reg, width = 32 ∧ off = r.offset ∧ k r = .next t := by
  unfold withRegister at h
  split at h
  · cases h
  · rename_i hw
    split at h
    · cases h
    · split at h
      · exact ⟨_, not_not.mp hw, (Reg.offset_of_ofOffset ‹_›).symm, h⟩
      · cases h

/-- A register access at a register's offset goes through. -/
theorem withRegister_offset (r : Reg) (k : Reg → Outcome) : withRegister r.offset 32 k = k r := by
  have h4 := Reg.offset_mod_four r
  simp [withRegister, h4, Reg.ofOffset_offset]

/-- A buffer access that answers is one byte inside the buffer. -/
theorem withBufferByte_cases {s t : State} {sp : Space} {i width : Nat} {k : Outcome}
    (h : withBufferByte s sp i width k = .next t) : width = 8 ∧ i < s.capacity sp ∧ k = .next t := by
  unfold withBufferByte at h
  split at h
  · cases h
  · rename_i hw
    split at h
    · cases h
    · exact ⟨not_not.mp hw, by omega, h⟩

theorem withBufferByte_of_lt {s : State} {sp : Space} {i : Nat} {k : Outcome} (h : i < s.capacity sp) :
    withBufferByte s sp i 8 k = k := by
  rw [withBufferByte, if_neg (by simp), if_neg (by omega)]

/-- What a transaction that answers has done, on the state with it taken off the front. -/
inductive Did (s : State) : Transaction → State → Prop where
  | readReg (r : Reg) : Did s (regRead r.offset) (s.answer (.word (s.readReg r)))
  | readByte (sp : Space) (i : Nat) (hs : sp ≠ .reg) (hi : i < s.capacity sp) :
      Did s (byteRead sp i) (s.answer (.byte (s.readBuffer sp i)))
  | command (w : Word) (t : State) (h : runCommand w s = .next t) : Did s (regWrite 0x00 w) t
  | inLen (v : Word) : Did s (regWrite 0x08 v) (s.setInLen v)
  | inOff (v : Word) : Did s (regWrite 0x0C v) (s.setInOff v)
  | typeIn (v : Word) : Did s (regWrite 0x10 v) (s.setTypeIn v)
  | readOnly (r : Reg) (v : Word) (hr : r ≠ .cmd ∧ r ≠ .inLen ∧ r ≠ .inOff ∧ r ≠ .typeIn) :
      Did s (regWrite r.offset v) s
  | writeByte (i : Nat) (v : Word) (hi : i < s.inBytes) :
      Did s (.write .input i 8 v) (s.writeInput i (v.setWidth 8))
  | reset : Did s .reset s.restart

theorem transact_cases {tr : Transaction} {s t : State} (h : transact tr s = .next t) : Did s tr t := by
  cases tr with
  | reset => cases h; exact .reset
  | read sp off width =>
    cases sp with
    | reg =>
      obtain ⟨r, rfl, rfl, hk⟩ := withRegister_cases h
      cases hk; exact .readReg r
    | input =>
      obtain ⟨rfl, hi, hk⟩ := withBufferByte_cases h
      cases hk; exact .readByte .input off (by simp) hi
    | data =>
      obtain ⟨rfl, hi, hk⟩ := withBufferByte_cases h
      cases hk; exact .readByte .data off (by simp) hi
    | out =>
      obtain ⟨rfl, hi, hk⟩ := withBufferByte_cases h
      cases hk; exact .readByte .out off (by simp) hi
  | write sp off width v =>
    cases sp with
    | reg =>
      obtain ⟨r, rfl, rfl, hk⟩ := withRegister_cases h
      cases r with
      | cmd => exact .command v t hk
      | inLen => cases hk; exact .inLen v
      | inOff => cases hk; exact .inOff v
      | typeIn => cases hk; exact .typeIn v
      | status => cases hk; exact .readOnly .status v (by simp)
      | ctype => cases hk; exact .readOnly .ctype v (by simp)
      | props => cases hk; exact .readOnly .props v (by simp)
      | chType => cases hk; exact .readOnly .chType v (by simp)
      | length => cases hk; exact .readOnly .length v (by simp)
      | crc => cases hk; exact .readOnly .crc v (by simp)
      | consumed => cases hk; exact .readOnly .consumed v (by simp)
      | outLen => cases hk; exact .readOnly .outLen v (by simp)
      | crcOut => cases hk; exact .readOnly .crcOut v (by simp)
    | input =>
      obtain ⟨rfl, hi, hk⟩ := withBufferByte_cases h
      cases hk; exact .writeByte off v hi
    | data => cases h
    | out => cases h

/-- A step does nothing while no transaction is to come, and otherwise does the next one. -/
theorem step_cases {s t : State} (h : step s = .next t) :
    (s.pending = [] ∧ t = s) ∨ (∃ tr rest, s.pending = tr :: rest ∧ Did (s.take rest) tr t) := by
  unfold step hostTurn at h
  split at h
  · cases h; exact .inl ⟨‹_›, rfl⟩
  · exact .inr ⟨_, _, ‹_›, transact_cases h⟩

theorem step_of_pending {s : State} {tr : Transaction} {rest : List Transaction} (h : s.pending = tr :: rest) :
    step s = transact tr (s.take rest) := by
  simp [step, hostTurn, h]

end Sys2Proof.Machine
end

