-- ==== Sys2Proof/Laws/PerInstr.lean ====
section
/-! SUPPORT. What holds of every command as syntax: it is well formed, its word passes the legality test of R74, and it
is one of the commands the decoder looks up. -/

namespace Sys2Proof.Laws

/-- The statement about one command. -/
def Encoding.Statement (i : Instr) : Prop :=
  i.wellFormed = true ∧ wordWellFormed (encode i) = true ∧ i ∈ Instr.all

theorem Encoding.ctFromBytes : Encoding.Statement .ctFromBytes := by unfold Encoding.Statement; decide

theorem Encoding.ctFromString : Encoding.Statement .ctFromString := by unfold Encoding.Statement; decide

theorem Encoding.ctFromChunk : Encoding.Statement .ctFromChunk := by unfold Encoding.Statement; decide

theorem Encoding.chunkNew : Encoding.Statement .chunkNew := by unfold Encoding.Statement; decide

theorem Encoding.chunkParse : Encoding.Statement .chunkParse := by unfold Encoding.Statement; decide

theorem Encoding.chunkSerialize : Encoding.Statement .chunkSerialize := by unfold Encoding.Statement; decide

theorem Encoding.chunkUtf8 : Encoding.Statement .chunkUtf8 := by unfold Encoding.Statement; decide

theorem Encoding.crcCompute : Encoding.Statement .crcCompute := by unfold Encoding.Statement; decide

end Sys2Proof.Laws
end

