-- ==== Sys2Proof/Laws/Safety.lean ====
section
/-! SUPPORT. What the invariant gives, and what it depends on. -/

namespace Sys2Proof.Machine

theorem State.windowOk_iff {s : State} : s.WindowOk ↔ s.windowInRange = true := by
  simp [State.WindowOk, State.windowInRange_iff, State.inBytes]

/-- Ending a command with a code is what the statements call failing with its number. -/
theorem State.settle_eq_failed (s : State) (e : ErrorCode) : s.settle e = s.failed e.code := rfl

/-- The chunk of a state that meets the invariant: its payload fits DATA and is stored, and its CRC is right. -/
theorem State.Inv.chunk {s : State} (h : s.Inv) (hv : s.status.chunkValid = true) :
    s.payloadInData = true ∧ s.data.stored 0 s.length.toNat = some s.payload ∧
      s.crc = crc32 (bytesBE32 s.chType ++ s.payload) := by
  have hc := h.chunkSound
  simp only [State.chunkSound, hv, Bool.not_true, Bool.false_or, Bool.and_eq_true] at hc
  obtain ⟨h1, h2⟩ := hc
  split at h2
  · rename_i d hd
    have hp : s.payload = d := Memory.readBytes_of_stored hd _
    rw [hp]
    exact ⟨h1, hd, by simpa using h2⟩
  · cases h2

/-- OUT in a state that meets the invariant: the serialization of the current chunk. -/
theorem State.Inv.out {s : State} (h : s.Inv) (hv : s.status.outValid = true) :
    s.status.chunkValid = true ∧ s.outLen.toNat = 12 + s.length.toNat ∧
      s.out.stored 0 s.outLen.toNat = some (frameBytes s.length s.chType s.payload s.crc) := by
  have ho := h.outSound
  simp only [State.outSound, hv, Bool.not_true, Bool.false_or, Bool.and_eq_true] at ho
  obtain ⟨⟨h1, h3⟩, h2⟩ := ho
  split at h2
  · rename_i d o hd ho
    have hp : s.payload = d := Memory.readBytes_of_stored hd _
    rw [hp, ho]
    exact ⟨h1, by simpa using h3, congrArg some (eq_of_beq h2)⟩
  · cases h2

theorem State.Inv.input {s : State} (h : s.Inv) : s.input.wf = true ∧ s.input.within s.inBytes = true := by
  have a := h.canonical
  have b := h.inRange
  simp only [State.buffersCanonical, State.buffersInRange, Bool.and_eq_true] at a b
  exact ⟨a.1.1, b.1.1⟩

theorem State.Inv.data {s : State} (h : s.Inv) : s.data.wf = true ∧ s.data.within s.dataBytes.val = true := by
  have a := h.canonical
  have b := h.inRange
  simp only [State.buffersCanonical, State.buffersInRange, Bool.and_eq_true] at a b
  exact ⟨a.1.2, b.1.2⟩

theorem State.Inv.outBuffer {s : State} (h : s.Inv) : s.out.wf = true ∧ s.out.within s.outBytes = true := by
  have a := h.canonical
  have b := h.inRange
  simp only [State.buffersCanonical, State.buffersInRange, Bool.and_eq_true] at a b
  exact ⟨a.2, b.2⟩

/-- The parts of a frame at the start of the window, as CHUNK_PARSE reads them, whatever stands in the CRC field. -/
theorem State.frame_parts {s : State} {t : Word} {d q more : List Byte} (hq : q.length = 4)
    (hd : d.length ≤ s.dataBytes.val)
    (hw : s.window = bytesBE32 (BitVec.ofNat 32 d.length) ++ bytesBE32 t ++ d ++ q ++ more) :
    12 + d.length ≤ s.windowSize ∧ s.frameLength = d.length ∧ s.windowBytes 4 4 = bytesBE32 t ∧
      s.framePayload = d ∧ s.frameCrc = be32 q := by
  have hb := s.dataBytes.isLt
  have hN : s.windowSize = 12 + d.length + more.length := by
    rw [← State.window_length, hw]
    simp [hq]
    omega
  have e0 : s.windowBytes 0 4 = bytesBE32 (BitVec.ofNat 32 d.length) := by
    rw [State.windowBytes_eq _ (by omega), hw]
    simp [List.append_assoc, bytesBE32]
  have e4 : s.windowBytes 4 4 = bytesBE32 t := by
    rw [State.windowBytes_eq _ (by omega), hw]
    simp [List.append_assoc, bytesBE32]
  have hl : s.frameLength = d.length := by
    rw [State.frameLength, e0, be32_bytesBE32]
    simp
    omega
  have e8 : s.framePayload = d := by
    rw [State.framePayload, hl, State.windowBytes_eq _ (by omega), hw]
    simp [List.append_assoc, bytesBE32]
  have ec : s.windowBytes (8 + d.length) 4 = q := by
    rw [State.windowBytes_eq _ (by omega), hw, List.append_assoc _ q more]
    rw [List.drop_left' (by simp; omega), ← hq, List.take_left]
  exact ⟨by omega, hl, e4, e8, by rw [State.frameCrc, hl, ec]⟩

end Sys2Proof.Machine
end

