-- ==== Sys2Proof/Tests/Slice0.lean ====
section
/-! SUPPORT. Tests against the spec's own vectors (95_test_vectors.md; the vector's id stands at each test), the smoke
tests of the well-formedness checks, and for each statement with hypotheses a state and operands that meet them. -/

namespace Sys2Proof.Tests

open Sys2Proof Sys2Proof.Machine

/-! ### Small states -/

/-- After reset, on a block with `DATA_BYTES = 64`, as the vectors assume. -/
def fresh : State := { State.reset with dataBytes := 64 }

/-- The state with these bytes in IN from offset 0, and the window around them. -/
def State.window0 (s : State) (bs : List Byte) : State :=
  { s with input := Memory.putBytes [] 0 bs, inOff := 0, inLen := BitVec.ofNat 32 bs.length }

/-- The state with this type loaded. -/
def State.typed (s : State) (t : Word) : State :=
  { s with ctype := t, status := { s.status with typeValid := true } }

/-- The state a host transaction is next in. -/
def State.next (s : State) (t : Transaction) : State := { s with pending := [t] }

/-- The state an outcome leaves; the reset state if it is a stop. -/
def after (o : Outcome) : State :=
  match o with
  | .next t => t
  | .fault _ => State.reset
  | .refused _ => State.reset

/-- An outcome is a next state with a property. -/
def nextWith (o : Outcome) (p : State → Bool) : Bool :=
  match o with
  | .next t => p t
  | .fault _ => false
  | .refused _ => false

theorem exists_next {o : Outcome} {p : State → Bool} (h : nextWith o p = true) :
    ∃ t, o = .next t ∧ p t = true := by
  unfold nextWith at h
  split at h
  · exact ⟨_, rfl, h⟩
  · cases h
  · cases h

/-- The invariant, checked clause by clause. -/
def invBool (s : State) : Bool :=
  s.buffersCanonical && s.buffersInRange && s.errLegal && s.chunkSound && s.outSound && s.consumedSound

theorem inv_of_bool {s : State} (h : invBool s = true) : s.Inv := by
  simp only [invBool, Bool.and_eq_true] at h
  obtain ⟨⟨⟨⟨⟨h1, h2⟩, h3⟩, h4⟩, h5⟩, h6⟩ := h
  exact ⟨h1, h2, h3, h4, h5, h6⟩

/-- The 42 bytes of MSG. -/
def msg : List Byte :=
  [0x54, 0x68, 0x69, 0x73, 0x20, 0x69, 0x73, 0x20, 0x77, 0x68, 0x65, 0x72, 0x65, 0x20, 0x79, 0x6F, 0x75, 0x72, 0x20, 0x73,
    0x65, 0x63, 0x72, 0x65, 0x74, 0x20] ++
  [0x6D, 0x65, 0x73, 0x73, 0x61, 0x67, 0x65, 0x20, 0x77, 0x69, 0x6C, 0x6C, 0x20, 0x62, 0x65, 0x21]

/-- RUSTCHUNK, the 54-byte chunk of type RuSt with payload MSG. -/
def rustChunk : List Byte := [0, 0, 0, 0x2A, 0x52, 0x75, 0x53, 0x74] ++ msg ++ [0xAB, 0xD1, 0xD8, 0x4E]

/-- The IEND chunk of VP8: no payload. -/
def iendChunk : List Byte := [0, 0, 0, 0, 0x49, 0x45, 0x4E, 0x44, 0xAE, 0x42, 0x60, 0x82]

/-- The tEXt chunk of VP13: payload "hi". -/
def hiChunk : List Byte := [0, 0, 0, 2, 0x74, 0x45, 0x58, 0x74, 0x68, 0x69, 0x75, 0x69, 0xE6, 0xDF]

/-- A block that has parsed the tEXt chunk. -/
def hiState : State := after (exec .chunkParse (State.window0 fresh hiChunk))

/-- The same block, serialized. -/
def hiOut : State := after (exec .chunkSerialize hiState)

/-! ### Well-formedness and decoding -/

/-- VI3: RSVD set, although OP is legal. -/
theorem test_rsvd_refused : wordWellFormed 0x00000110 = false ∧ rsvdClear 0x00000110 = false := by decide

/-- VI2: an OP the map does not assign. -/
theorem test_op_refused : wordWellFormed 0x00000004 = false ∧ opAssigned 0x00000004 = false := by decide

theorem test_words_well_formed : (Instr.all.all fun i => i.wellFormed && wordWellFormed (encode i)) = true := by decide

/-- The ChunkType unit's words, bit by bit (R71, R73: OP in bits 7:0 below 24 zeros). -/
theorem test_decode_type_unit :
    decode 0b00000000000000000000000000000001 = .ok .ctFromBytes ∧
    decode 0b00000000000000000000000000000010 = .ok .ctFromString ∧
    decode 0b00000000000000000000000000000011 = .ok .ctFromChunk := by decide

/-- The Chunk codec's words, bit by bit. -/
theorem test_decode_chunk_codec :
    decode 0b00000000000000000000000000010000 = .ok .chunkNew ∧
    decode 0b00000000000000000000000000010001 = .ok .chunkParse ∧
    decode 0b00000000000000000000000000010010 = .ok .chunkSerialize ∧
    decode 0b00000000000000000000000000010011 = .ok .chunkUtf8 := by decide

/-- The CRC unit's word, bit by bit. -/
theorem test_decode_crc_unit : decode 0b00000000000000000000000000100000 = .ok .crcCompute := by decide

/-- VI1 to VI6: the illegal words of the vectors, by name. -/
theorem test_decode_illegal :
    decode 0x00000000 = .error .opcodeUnassigned ∧ decode 0x00000004 = .error .opcodeUnassigned ∧
    decode 0x00000110 = .error .reservedBitsSet ∧ decode 0xFFFFFFFF = .error .reservedBitsSet ∧
    decode 0x00000021 = .error .opcodeUnassigned ∧ decode 0x80000020 = .error .reservedBitsSet := by decide

theorem test_decode_table_word :
    decodeTableWord 32 0x11 = some .chunkParse ∧ decodeTableWord 32 0x111 = none ∧
    decodeTableWord 8 0x20 = some .crcCompute := by decide

/-- After reset, the command word placed as the next CMD write runs (P4: no chunk, NotLoaded). -/
theorem test_fetch_word_runs :
    nextWith (step (State.reset.withFetchWord 32 0x12)) (fun t => t.status.word == 0x00000007) = true := by decide

/-! ### The CRC unit -/

/-- VC2: the check value. -/
theorem test_crc_check_value :
    nextWith (exec .crcCompute (State.window0 fresh [0x31, 0x32, 0x33, 0x34, 0x35, 0x36, 0x37, 0x38, 0x39]))
      (fun t => t.crcOut == 0xCBF43926 && t.status.word == 0x00000800) = true := by decide +kernel

/-- VC12: the window is reversed. -/
theorem test_crc_reversed_window :
    nextWith (exec .crcCompute { fresh with inOff := 5, inLen := 4 }) (fun t => t.status.word == 0x00000009) = true := by
  decide

/-! ### The ChunkType unit -/

/-- VT1, VT2, VT5, VT9, VT10, VT12, VT13: PROPS. -/
theorem test_props :
    props 0x52755374 = 0x00000F1D ∧ props 0x52757374 = 0x00000F09 ∧ props 0x74455874 = 0x00000F1E ∧
    props 0x00000000 = 0x00000007 ∧ props 0x52755331 = 0x0000070D ∧ props 0x405B607B = 0x0000000B ∧
    props 0x415A617A = 0x00000F0B := by decide

/-- VB3. -/
theorem test_ct_from_bytes :
    nextWith (exec .ctFromBytes { fresh with typeIn := 0xFFFFFFFF })
      (fun t => t.ctype == 0xFFFFFFFF && t.status.word == 0x00000100) = true := by decide

/-- VS1: the type's first byte is the window's first. -/
theorem test_ct_from_string :
    nextWith (exec .ctFromString (State.window0 fresh [0x52, 0x75, 0x53, 0x74]))
      (fun t => t.ctype == 0x52755374 && t.status.word == 0x00000100) = true := by decide

/-- VS5: five letters. -/
theorem test_ct_from_string_too_long :
    nextWith (exec .ctFromString (State.window0 (State.typed fresh 0x49484452) [0x52, 0x75, 0x53, 0x74, 0x58]))
      (fun t => t.ctype == 0x49484452 && t.status.word == 0x00000101) = true := by decide

/-- VF1. -/
theorem test_ct_from_chunk_none :
    nextWith (exec .ctFromChunk fresh) (fun t => t.status.word == 0x00000007) = true := by decide

/-! ### The Chunk codec -/

/-- VN1 and S6: the source's CRC. -/
theorem test_chunk_new :
    nextWith (exec .chunkNew (State.window0 (State.typed fresh 0x52755374) msg))
      (fun t => t.crc.toNat == 2882656334 && t.length == 42 && t.chType == 0x52755374 &&
        t.status.word == 0x00000300) = true := by decide +kernel

/-- VN9: the window check comes before NotLoaded. -/
theorem test_chunk_new_precedence :
    nextWith (exec .chunkNew { fresh with inLen := 77 }) (fun t => t.status.err == 9) = true := by decide

/-- VP2: a trailing byte is ignored. -/
theorem test_chunk_parse_trailing :
    nextWith (exec .chunkParse (State.window0 fresh (rustChunk ++ [0])))
      (fun t => t.length == 42 && t.crc == 0xABD1D84E && t.consumed == 54 && t.data.stored 0 42 == some msg &&
        t.status.word == 0x00001200) = true := by decide +kernel

/-- VP10: the declared length is checked before the window's. -/
theorem test_chunk_parse_precedence :
    nextWith (exec .chunkParse (State.window0 fresh [0, 0, 0, 0x41, 0x52, 0x75, 0x53, 0x74, 0, 0, 0, 0]))
      (fun t => t.status.err == 9) = true := by decide

/-- VR4: the bytes of the serialization. -/
theorem test_chunk_serialize :
    nextWith (exec .chunkSerialize hiState)
      (fun t => t.outLen == 14 && t.out.stored 0 14 == some hiChunk && t.status.word == 0x00001600) = true := by
  decide +kernel

/-- VU4, VU6, VU7, and VU8 to VU15. -/
theorem test_utf8 :
    ([[0xE2, 0x82, 0xAC], [0xF0, 0x9F, 0x98, 0x80], [0xF4, 0x8F, 0xBF, 0xBF], [0xED, 0x9F, 0xBF], [0x00], []].all
      utf8Valid) = true ∧
    ([[0xC3, 0x28], [0xC0, 0x80], [0xE0, 0x9F, 0x80], [0xED, 0xA0, 0x80], [0xF4, 0x90, 0x80, 0x80],
      [0xF5, 0x80, 0x80, 0x80], [0xE2, 0x82], [0x80]].any utf8Valid) = false := by decide

/-- VU8 as a command: only ERR changes. -/
theorem test_chunk_utf8_invalid :
    nextWith (exec .chunkUtf8 { hiState with data := [(0, 0xC3), (1, 0x28)] })
      (fun t => t.status.word == 0x00001205 && t.length == 2) = true := by decide +kernel

/-! ### The host interface -/

/-- VH4: a write to LENGTH is ignored. -/
theorem test_read_only_write :
    nextWith (step (State.next hiState (regWrite 0x20 5))) (fun t => t.length == 2) = true := by decide +kernel

/-- VH6 and VH7: refused accesses, one for each check. -/
theorem test_refused_accesses :
    (step (State.next fresh (regRead 0x34)) matches .refused (.unmappedRegister 0x34)) = true ∧
    (step (State.next fresh (regRead 0x06)) matches .refused (.misalignedRegister 0x06)) = true ∧
    (step (State.next fresh (.read .reg 0x04 16)) matches .refused (.accessWidth .reg 16)) = true ∧
    (step (State.next fresh (inWrite 76 0)) matches .refused (.outsideBuffer .input 76)) = true ∧
    (step (State.next fresh (.read .data 0 32)) matches .refused (.accessWidth .data 32)) = true ∧
    (step (State.next fresh (.write .out 0 8 0)) matches .refused (.readOnlyBuffer .out)) = true := by decide

/-- P1's first lines: `lds 0, "RuSt"`, `win 0, 4`, `cmd CT_FROM_STRING` as transactions. -/
theorem test_program_notation :
    progWin 0 4 ++ progCmd .ctFromString = [regWrite 0x0C 0, regWrite 0x08 4, regWrite 0x00 0x00000002] ∧
    progLdb 0 [0x52, 0x75] = [inWrite 0 0x52, inWrite 1 0x75] ∧
    commandWords (progWin 0 4 ++ progCmd .ctFromString) = [0x00000002] := by decide

/-! ### Witnesses: for each statement with hypotheses, operands that meet them -/

/-- The boundary words of R75's clauses, each illegal. -/
theorem witness_IllegalWord :
    (∀ w ∈ [0x00, 0x04, 0x0F, 0x14, 0x1F, 0x21, 0xFF, 0x110, 0x80000020],
      (decode (BitVec.ofNat 32 w)).toOption = none) ∧
    (State.next fresh (regWrite 0x00 0x110)).pending = [regWrite 0x00 0x110] := by decide

theorem witness_StepRunsTheCommandWritten :
    (State.next fresh (regWrite 0x00 0x20)).pending = [regWrite 0x00 0x20] ∧ decode 0x20 = .ok .crcCompute := by decide

/-- A state whose next transaction is a read, with another to come. -/
theorem witness_StepPerformsTheNextTransaction :
    State.pending { fresh with pending := [regRead 0x04, .reset] } = [regRead 0x04, .reset] := rfl

theorem witness_IdleStep : fresh.pending = [] := rfl

/-- Steps that answer: a command, a read and a reset. -/
theorem witness_StepAnswers :
    (∃ t, step (State.next fresh (regWrite 0x00 0x01)) = .next t) ∧
    (∃ t, step (State.next fresh (regRead 0x04)) = .next t) ∧
    (∃ t, step (State.next hiState .reset) = .next t) := ⟨⟨_, rfl⟩, ⟨_, rfl⟩, ⟨_, rfl⟩⟩

/-- The window checks at their boundaries: IN_LEN = IN_BYTES is inside, one more is outside, and a window is not
reversed. -/
theorem witness_WindowOk :
    State.WindowOk { fresh with inLen := 76, inOff := 76 } ∧ ¬ State.WindowOk { fresh with inLen := 77 } ∧
    ¬ State.WindowOk { fresh with inOff := 5, inLen := 4 } := by unfold State.WindowOk; decide

/-- CT_FROM_STRING: three letters, four bytes one of which is no letter, and four letters. -/
theorem witness_CtFromString :
    (State.window0 fresh [0x52, 0x75, 0x53]).WindowOk ∧ (State.window0 fresh [0x52, 0x75, 0x53]).window.length ≠ 4 ∧
    (State.window0 fresh [0x52, 0x75, 0x31, 0x74]).WindowOk ∧
    ¬ (∀ b ∈ (State.window0 fresh [0x52, 0x75, 0x31, 0x74]).window, isLetter b = true) ∧
    (State.window0 fresh [0x52, 0x75, 0x53, 0x74]).WindowOk ∧
    (State.window0 fresh [0x52, 0x75, 0x53, 0x74]).window.length = 4 ∧
    ∀ b ∈ (State.window0 fresh [0x52, 0x75, 0x53, 0x74]).window, isLetter b = true := by
  unfold State.WindowOk
  decide

theorem witness_CtFromChunk : fresh.status.chunkValid = false ∧ hiState.status.chunkValid = true := by
  decide +kernel

/-- CHUNK_NEW: no type, 65 payload bytes, and exactly 64. -/
theorem witness_ChunkNew :
    fresh.WindowOk ∧ fresh.status.typeValid = false ∧
    State.WindowOk { State.typed fresh 0 with inLen := 65 } ∧ (64 : Nat) < 65 - 0 ∧
    State.WindowOk { State.typed fresh 0 with inLen := 64 } ∧ (State.typed fresh 0).status.typeValid = true := by
  unfold State.WindowOk
  decide

/-- CHUNK_PARSE: 11 bytes; 12 bytes declaring 65; 12 bytes declaring 1; a wrong CRC; and a right one at N = 12 + L. -/
theorem witness_ChunkParse :
    (State.window0 fresh (iendChunk.take 11)).windowSize = 11 ∧
    (State.window0 fresh [0, 0, 0, 65, 0, 0, 0, 0, 0, 0, 0, 0]).frameLength = 65 ∧
    (State.window0 fresh [0, 0, 0, 1, 0, 0, 0, 0, 0, 0, 0, 0]).frameLength = 1 ∧
    (State.window0 fresh (iendChunk.take 11 ++ [0x83])).frameComputedCrc ≠
      (State.window0 fresh (iendChunk.take 11 ++ [0x83])).frameCrc ∧
    (State.window0 fresh iendChunk).WindowOk ∧ (State.window0 fresh iendChunk).windowSize = 12 ∧
    (State.window0 fresh iendChunk).frameLength = 0 ∧
    (State.window0 fresh iendChunk).frameComputedCrc = (State.window0 fresh iendChunk).frameCrc := by
  unfold State.WindowOk
  decide +kernel

/-- A chunk whose payload fits, as R127, R132 and R43 assume: the invariant holds of it, serialized or not. -/
theorem witness_Inv : hiState.Inv ∧ hiOut.Inv :=
  ⟨inv_of_bool (by decide +kernel), inv_of_bool (by decide +kernel)⟩

theorem witness_ChunkSerialize :
    hiState.status.chunkValid = true ∧ hiState.length.toNat ≤ hiState.dataBytes.val ∧
    State.length { hiState with length := 64 } = 64 := by decide +kernel

theorem witness_ChunkUtf8 :
    utf8Valid hiState.payload = true ∧
    utf8Valid (State.payload { hiState with data := [(0, 0xC3), (1, 0x28)] }) = false := by decide +kernel

theorem witness_PayloadPastData :
    State.dataBytes { hiState with length := 65 } = 64 ∧ State.length { hiState with length := 65 } = 65 ∧
    hiState.status.chunkValid = true := by decide +kernel

/-- A command word that reports an error. -/
theorem witness_FailingCommand :
    ∃ t, runCommand 0x12 fresh = .next t ∧ (t.status.err != 0) = true := exists_next (by decide)

/-- Every command succeeds somewhere. -/
theorem witness_CommandsSucceed :
    (∃ t, exec .ctFromBytes fresh = .next t ∧ (t.status.err == 0) = true) ∧
    (∃ t, exec .ctFromString (State.window0 fresh [0x52, 0x75, 0x53, 0x74]) = .next t ∧
      (t.status.err == 0) = true) ∧
    (∃ t, exec .ctFromChunk hiState = .next t ∧ (t.status.err == 0) = true) ∧
    (∃ t, exec .chunkNew (State.typed fresh 0) = .next t ∧ (t.status.err == 0) = true) ∧
    (∃ t, exec .chunkParse (State.window0 fresh iendChunk) = .next t ∧ (t.status.err == 0) = true) ∧
    (∃ t, exec .chunkSerialize hiState = .next t ∧ (t.status.err == 0) = true) ∧
    (∃ t, exec .chunkUtf8 hiState = .next t ∧ (t.status.err == 0) = true) ∧
    (∃ t, exec .crcCompute fresh = .next t ∧ (t.status.err == 0) = true) :=
  ⟨exists_next (by decide), exists_next (by decide), exists_next (by decide +kernel), exists_next (by decide +kernel),
    exists_next (by decide +kernel), exists_next (by decide +kernel), exists_next (by decide +kernel),
    exists_next (by decide)⟩

/-- Every error of R172 arises: the codes 9, 1; 7; 9, 7; 9, 3, 2; 7; 7, 5; 9. -/
theorem witness_ErrorsArise :
    (∃ t, exec .ctFromString { fresh with inLen := 77 } = .next t ∧ (t.status.err == 9) = true) ∧
    (∃ t, exec .ctFromString fresh = .next t ∧ (t.status.err == 1) = true) ∧
    (∃ t, exec .ctFromChunk fresh = .next t ∧ (t.status.err == 7) = true) ∧
    (∃ t, exec .chunkNew { State.typed fresh 0 with inLen := 65 } = .next t ∧ (t.status.err == 9) = true) ∧
    (∃ t, exec .chunkNew fresh = .next t ∧ (t.status.err == 7) = true) ∧
    (∃ t, exec .chunkParse { fresh with inLen := 77 } = .next t ∧ (t.status.err == 9) = true) ∧
    (∃ t, exec .chunkParse fresh = .next t ∧ (t.status.err == 3) = true) ∧
    (∃ t, exec .chunkParse (State.window0 fresh (iendChunk.take 11 ++ [0x83])) = .next t ∧
      (t.status.err == 2) = true) ∧
    (∃ t, exec .chunkSerialize fresh = .next t ∧ (t.status.err == 7) = true) ∧
    (∃ t, exec .chunkUtf8 fresh = .next t ∧ (t.status.err == 7) = true) ∧
    (∃ t, exec .chunkUtf8 { hiState with data := [(0, 0xC3), (1, 0x28)] } = .next t ∧ (t.status.err == 5) = true) ∧
    (∃ t, exec .crcCompute { fresh with inLen := 77 } = .next t ∧ (t.status.err == 9) = true) :=
  ⟨exists_next (by decide), exists_next (by decide), exists_next (by decide), exists_next (by decide),
    exists_next (by decide), exists_next (by decide), exists_next (by decide), exists_next (by decide +kernel),
    exists_next (by decide), exists_next (by decide), exists_next (by decide +kernel), exists_next (by decide)⟩

/-- A buffer in canonical form and bytes to write to it. -/
theorem witness_Buffer : Memory.wf [(0, 0x41), (7, 0x42)] = true ∧ (0 : Nat) < [(0x43 : Byte)].length := by decide

theorem witness_FourBytes : ([0xAB, 0xD1, 0xD8, 0x4E] : List Byte).length = 4 ∧
    be32 [0xAB, 0xD1, 0xD8, 0x4E] = 2882656334 := by decide

/-- Two different bytes, as the CRC statements assume. -/
theorem witness_DifferentBytes : (0x41 : Byte) ≠ 0x42 := by decide

/-- A frame of a type that is not valid (VP12), with a byte after it, and the same frame with a wrong CRC field. -/
theorem witness_Frame :
    (State.window0 fresh [0, 0, 0, 0, 0x52, 0x75, 0x31, 0x74, 0x83, 0x4F, 0x00, 0x19, 0xFF]).WindowOk ∧
    (State.window0 fresh [0, 0, 0, 0, 0x52, 0x75, 0x31, 0x74, 0x83, 0x4F, 0x00, 0x19, 0xFF]).window =
      bytesBE32 0 ++ bytesBE32 0x52753174 ++ [] ++ bytesBE32 (crc32 (bytesBE32 0x52753174 ++ [])) ++ [0xFF] ∧
    ([0x83, 0x4F, 0x00, 0x18] : List Byte) ≠ bytesBE32 (crc32 (bytesBE32 0x52753174 ++ [])) ∧
    (State.window0 fresh [0, 0, 0, 0, 0x52, 0x75, 0x31, 0x74, 0x83, 0x4F, 0x00, 0x18]).window =
      bytesBE32 0 ++ bytesBE32 0x52753174 ++ [] ++ [0x83, 0x4F, 0x00, 0x18] ++ [] := by
  unfold State.WindowOk
  decide +kernel

/-- A window with one byte after the chunk, and the window without it. -/
theorem witness_ParseIgnoresTrailing :
    (State.window0 fresh (iendChunk ++ [7])).WindowOk ∧
    State.WindowOk { State.window0 fresh (iendChunk ++ [7]) with inLen := 12, input := Memory.putBytes [] 0 iendChunk } ∧
    12 + (be32 ((State.window0 fresh (iendChunk ++ [7])).windowBytes 0 4)).toNat = 12 ∧
    (∀ i, i < 12 → (Memory.putBytes [] 0 iendChunk).cell i = (State.window0 fresh (iendChunk ++ [7])).input.cell i) ∧
    nextWith (exec .chunkParse (State.window0 fresh (iendChunk ++ [7]))) (fun t => t.status.err == 0) = true := by
  unfold State.WindowOk
  decide +kernel

/-- The serialization of a chunk, copied to IN at offset 3. -/
theorem witness_SerializeThenParse :
    (17 : Nat) ≤ hiOut.inBytes ∧ (17 : Nat) = 3 + hiOut.outLen.toNat ∧
    ∀ i, i < 14 → (Memory.putBytes [] 3 hiChunk).cell (3 + i) = hiOut.out.cell i := by decide +kernel

/-- Register and buffer reads and writes that the interface defines, at the ends of their ranges. -/
theorem witness_Transactions :
    (State.next fresh (regRead 0x30)).pending = [regRead 0x30] ∧
    (State.next fresh (regWrite 0x08 0xFFFFFFFF)).pending = [regWrite 0x08 0xFFFFFFFF] ∧
    (State.next fresh (regWrite 0x30 0)).pending = [regWrite 0x30 0] ∧
    (State.next fresh (inWrite 75 1)).pending = [inWrite 75 1] ∧ 75 < fresh.dataBytes.val + 12 ∧
    (State.next hiState (byteRead .data 1)).pending = [byteRead .data 1] ∧ 1 < hiState.length.toNat ∧
    (State.next hiOut (byteRead .out 13)).pending = [byteRead .out 13] ∧ 13 < hiOut.outLen.toNat ∧
    hiOut.status.outValid = true := by decide +kernel

/-- Reads of both kinds of byte: a DATA byte past LENGTH, an IN byte written and one not written, by the host and in a
window. -/
theorem witness_Unspecified :
    ¬ 2 < hiState.length.toNat ∧ (hiState.input.cell 13).isSome = true ∧ hiState.input.cell 14 = none ∧
    (13 : Nat) < hiState.inLen.toNat - hiState.inOff.toNat ∧
    State.window { fresh with inLen := 1 } = [Config.freeByte 0 0] := by
  refine ⟨by decide +kernel, by decide +kernel, by decide +kernel, by decide +kernel, rfl⟩

/-- Transactions that set each presence flag, and ones that change the chunk and the type. -/
theorem witness_FlagsAndChunkChange :
    (∃ t, transact (regWrite 0x00 0x01) fresh = .next t ∧ t.status.typeValid = true) ∧
    (∃ t, transact (regWrite 0x00 0x11) (State.window0 fresh iendChunk) = .next t ∧
      (t.status.chunkValid && t.chType != 0) = true) ∧
    (∃ t, transact (regWrite 0x00 0x20) fresh = .next t ∧ t.status.crcOutValid = true) ∧
    (∃ t, transact (regWrite 0x00 0x03) hiState = .next t ∧ (t.ctype != hiState.ctype) = true) ∧
    (fresh.status.typeValid || fresh.status.chunkValid || fresh.status.crcOutValid) = false :=
  ⟨exists_next (by decide), exists_next (by decide +kernel), exists_next (by decide), exists_next (by decide +kernel),
    by decide⟩

/-- A RESET and a write to IN, each of which answers. -/
theorem witness_ResetAndInWrite :
    (∃ t, transact .reset hiState = .next t ∧ (t.input.cell 0 == none) = true) ∧
    (∃ t, transact (inWrite 75 1) fresh = .next t ∧ (t.input.cell 75 == some 1) = true) :=
  ⟨exists_next (by decide +kernel), exists_next (by decide +kernel)⟩

/-- Reads of a register and of a buffer that the interface defines. -/
theorem witness_Reads :
    (∃ t, transact (.read .reg 0x30 32) fresh = .next t) ∧ (∃ t, transact (.read .input 75 8) fresh = .next t) :=
  ⟨⟨_, rfl⟩, ⟨_, rfl⟩⟩

/-- Reads of DATA and OUT bytes in states that meet the invariant: the last byte inside, and the first outside. -/
theorem witness_DataAndOutReads :
    (State.next hiState (byteRead .data 1)).Inv ∧ (State.next hiState (byteRead .data 2)).Inv ∧
    (State.next hiOut (byteRead .out 13)).Inv ∧ (State.next hiOut (byteRead .out 14)).Inv ∧
    hiState.length.toNat = 2 ∧ hiOut.outLen.toNat = 14 ∧ (14 : Nat) < hiOut.dataBytes.val + 12 :=
  ⟨inv_of_bool (by decide +kernel), inv_of_bool (by decide +kernel), inv_of_bool (by decide +kernel),
    inv_of_bool (by decide +kernel), by decide +kernel, by decide +kernel, by decide +kernel⟩

/-- Two states that meet the invariant and hold chunks of equal type and payload. -/
theorem witness_TypeAndPayload :
    hiState.Inv ∧ hiOut.Inv ∧ hiState.status.chunkValid = true ∧ hiOut.status.chunkValid = true ∧
    hiState.chType = hiOut.chType ∧ hiState.payload = hiOut.payload :=
  ⟨witness_Inv.1, witness_Inv.2, by decide +kernel, by decide +kernel, by decide +kernel, by decide +kernel⟩

/-- A state that meets the invariant and steps, and a transaction that is neither a CMD write nor a RESET. -/
theorem witness_StepFromInv :
    (State.next hiState (regWrite 0x00 0x12)).Inv ∧
    (∃ t, step (State.next hiState (regWrite 0x00 0x12)) = .next t ∧ t.status.outValid = true) ∧
    (∃ t, transact (regWrite 0x08 9) hiState = .next t ∧ (t.inLen == 9) = true) ∧
    (∀ w, regWrite 0x08 9 ≠ regWrite 0x00 w) ∧ regWrite 0x08 9 ≠ .reset :=
  ⟨inv_of_bool (by decide +kernel), exists_next (by decide +kernel), exists_next (by decide +kernel),
    by simp [regWrite], by simp [regWrite]⟩

/-- A flag that is set, and a transaction that is no RESET. -/
theorem witness_FlagKept :
    hiState.status.chunkValid = true ∧ regRead 0x04 ≠ .reset ∧
    ∃ t, transact (regRead 0x04) hiState = .next t ∧ t.status.chunkValid = true :=
  ⟨by decide +kernel, by simp [regRead], exists_next (by decide +kernel)⟩

/-- Outcomes of OUT_VALID and CONSUMED_VALID: OUT_VALID set in a state that meets the invariant. -/
theorem witness_OutValid : hiOut.Inv ∧ hiOut.status.outValid = true := ⟨witness_Inv.2, by decide +kernel⟩

/-- Transactions of R56's list and one that is not. -/
theorem witness_RefusedOn :
    (Transaction.read .reg 0x34 32).refusedOn 64 ∧ ¬ (Transaction.read .reg 0x30 32).refusedOn 64 ∧
    (Transaction.write .input 76 8 0).refusedOn 64 ∧ ¬ (Transaction.write .input 75 8 0).refusedOn 64 := by
  refine ⟨.inr (.inr (by decide)), ?_, .inr (by decide), ?_⟩ <;> simp [Transaction.refusedOn]

/-- A state looks like itself with other bytes past LENGTH and, without a CRC_COMPUTE result, another CRCOUT. -/
theorem looksLike_with_stale {s : State} (hl : s.length.toNat = 2) (hc : s.status.crcOutValid = false) :
    s.LooksLike { s with crcOut := 7, data := s.data.put 2 0xFF } := by
  refine ⟨rfl, rfl, rfl, rfl, rfl, rfl, rfl, rfl, rfl, fun _ => rfl, fun _ => ⟨rfl, rfl, rfl, ?_⟩, fun _ => rfl,
    fun _ => ⟨rfl, fun _ _ => rfl⟩, fun h => ?_⟩
  · intro i hi
    rw [hl] at hi
    exact (Memory.cell_put_of_ne _ _ (by omega)).symm
  · rw [hc] at h
    cases h

/-- Two different states the host cannot tell apart. -/
theorem witness_LooksLike :
    hiState.LooksLike { hiState with crcOut := 7, data := hiState.data.put 2 0xFF } ∧
    (hiState.data.put 2 0xFF == hiState.data) = false :=
  ⟨looksLike_with_stale (by decide +kernel) (by decide +kernel), by decide +kernel⟩

end Sys2Proof.Tests
end

/-! PROOFS. The scope of the block (R8, R13, R17, R18, R58, R170): its size parameter is fixed, its buffers and packed
values give back what was put in, and no step of a state that meets the invariant faults. -/

namespace Sys2Proof.Machine

/-! ### Buffers and packed values (R13, R58) -/

/-- Settles O22: a buffer read gives back what was written, and every other byte is left alone. -/
theorem bufferReadAfterWrite : Obligations.BufferReadAfterWrite := by
  unfold Obligations.BufferReadAfterWrite
  intro m a bs
  refine ⟨fun i hi => ?stored, fun x hx => ?frame, fun hm => ?canonical, fun d => ?readBack⟩
  case stored => exact Memory.cell_putBytes_of_lt m bs hi
  case frame => exact Memory.cell_putBytes_outside m bs hx
  case canonical => exact Memory.wf_putBytes hm a bs
  case readBack => exact Memory.readBytes_of_stored (Memory.stored_putBytes m a bs) d

/-- Settles O23: packing is big-endian, and packing and unpacking are inverse of each other. -/
theorem packingIsBigEndianAndInvertible : Obligations.PackingIsBigEndianAndInvertible := by
  unfold Obligations.PackingIsBigEndianAndInvertible
  refine ⟨fun v => ?bytePositions, be32_four_toNat, be32_bytesBE32, fun s hs => bytesBE32_be32 hs⟩
  case bytePositions => rfl

/-! ### The size parameter (R8, R17) -/

/-- What a successful command writes is never the size parameter. -/
theorem Wrote.dataBytes_eq {i : Instr} {s u : State} (h : Wrote s i u) : u.dataBytes = s.dataBytes := by
  cases h <;> rfl

theorem exec_keeps_dataBytes {i : Instr} {s t : State} (h : exec i s = .next t) : t.dataBytes = s.dataBytes := by
  obtain ⟨e, _, rfl⟩ | ⟨u, hu, rfl⟩ := exec_cases h
  · exact State.settle_dataBytes s e
  · exact hu.dataBytes_eq

/-- A CMD write keeps the size, whether its word is legal or not. -/
theorem runCommand_keeps_dataBytes {w : Word} {s t : State} (h : runCommand w s = .next t) :
    t.dataBytes = s.dataBytes := by
  obtain ⟨i, _, hi⟩ | ⟨_, rfl⟩ := runCommand_cases h
  · exact exec_keeps_dataBytes hi
  · rfl

/-- Of the transactions only a CMD write runs a command; a RESET keeps the size by its definition (log entry 15). -/
theorem Did.dataBytes_eq {tr : Transaction} {s t : State} (h : Did s tr t) : t.dataBytes = s.dataBytes := by
  cases h with
  | command w _ hw => exact runCommand_keeps_dataBytes hw
  | readReg | readByte | inLen | inOff | typeIn | readOnly | writeByte | reset => rfl

/-- Settles O9: no step changes DATA_BYTES. -/
theorem stepKeepsDataBytes : Obligations.StepKeepsDataBytes := by
  unfold Obligations.StepKeepsDataBytes
  intro s t h
  obtain ⟨_, rfl⟩ | ⟨tr, rest, _, hdid⟩ := step_cases h
  · rfl
  · exact hdid.dataBytes_eq.trans (State.take_dataBytes s rest)

/-! ### Faults (R18, R170) -/

/-- The one state in which something can fault (log entry 6): a chunk exists and its LENGTH exceeds DATA_BYTES. -/
def State.PayloadPastData (s : State) : Prop := s.status.chunkValid = true ∧ s.payloadInData = false

/-- The invariant rules that state out (R37). -/
theorem State.Inv.not_payloadPastData {s : State} (h : s.Inv) : ¬ s.PayloadPastData := by
  rintro ⟨hvalid, hpast⟩
  obtain ⟨hin, _, _⟩ := h.chunk hvalid
  exact Bool.false_ne_true (hpast.symm.trans hin)

theorem runCommand_fault {w : Word} {s : State} {f : Fault} (h : runCommand w s = .fault f) :
    s.PayloadPastData := by
  unfold runCommand at h
  split at h
  · exact exec_fault_cases h
  · cases h

/-- Only a CMD write can fault. -/
theorem writeReg_fault {r : Reg} {v : Word} {s : State} {f : Fault} (h : writeReg r v s = .fault f) :
    s.PayloadPastData := by
  cases r with
  | cmd => exact runCommand_fault h
  | status | inLen | inOff | typeIn | ctype | props | chType | length | crc | consumed | outLen | crcOut => cases h

/-- A register access faults only in what it does with its register: a refusal is no fault. -/
theorem withRegister_fault {off width : Nat} {k : Reg → Outcome} {f : Fault}
    (h : withRegister off width k = .fault f) : ∃ r, k r = .fault f := by
  unfold withRegister at h
  split at h
  · cases h
  · split at h
    · cases h
    · split at h
      · exact ⟨_, h⟩
      · cases h

/-- A buffer access faults only in what it does with its byte. -/
theorem withBufferByte_fault {s : State} {sp : Space} {i width : Nat} {k : Outcome} {f : Fault}
    (h : withBufferByte s sp i width k = .fault f) : k = .fault f := by
  unfold withBufferByte at h
  split at h
  · cases h
  · split at h
    · cases h
    · exact h

/-- A read answers or is refused (R56, R62). -/
theorem readAccess_ne_fault (sp : Space) (off width : Nat) (s : State) (f : Fault) :
    readAccess sp off width s ≠ .fault f := by
  intro h
  cases sp with
  | reg =>
    obtain ⟨r, hr⟩ := withRegister_fault h
    cases hr
  | input | data | out => cases withBufferByte_fault h

theorem writeAccess_fault {sp : Space} {off width : Nat} {v : Word} {s : State} {f : Fault}
    (h : writeAccess sp off width v s = .fault f) : s.PayloadPastData := by
  cases sp with
  | reg =>
    obtain ⟨r, hr⟩ := withRegister_fault h
    exact writeReg_fault hr
  | input => cases withBufferByte_fault h
  | data | out => cases h

theorem transact_fault {tr : Transaction} {s : State} {f : Fault} (h : transact tr s = .fault f) :
    s.PayloadPastData := by
  cases tr with
  | read sp off width => exact absurd h (readAccess_ne_fault sp off width s f)
  | write sp off width v => exact writeAccess_fault h
  | reset => cases h

/-- Taking a transaction off the front touches neither the chunk nor the size, so the fault is one of `s` itself. -/
theorem step_fault {s : State} {f : Fault} (h : step s = .fault f) : s.PayloadPastData := by
  unfold step hostTurn at h
  split at h
  · cases h
  · exact transact_fault (s := s.take _) h

/-- Settles O53: a step faults only for a chunk the invariant rules out. -/
theorem noStepFaults : Obligations.NoStepFaults := by
  unfold Obligations.NoStepFaults
  intro s hs f h
  exact hs.not_payloadPastData (step_fault h)

end Sys2Proof.Machine

/-! PROOFS. The state (R24 to R49): the invariant of the block, the write matrix, the STATUS word and its flags, and
reset. -/

namespace Sys2Proof.Machine

/-! ### What a command's error code says of it -/

/-- A command that reports an error has written nothing but ERR (R174). -/
theorem exec_error {i : Instr} {s t : State} (h : exec i s = .next t) (herr : t.status.err ≠ 0) :
    t = s.failed t.status.err := by
  obtain ⟨e, _, rfl⟩ | ⟨u, _, rfl⟩ := exec_cases h
  · exact State.settle_eq_failed s e
  · exact absurd rfl herr

/-- A command that reports no error has written its row of the matrix. -/
theorem exec_ok {i : Instr} {s t : State} (h : exec i s = .next t) (herr : t.status.err = 0) :
    ∃ u, Wrote s i u ∧ t = u.settle .ok := by
  obtain ⟨e, he, rfl⟩ | hwrote := exec_cases h
  · exact absurd herr (code_ne_zero_of_raises he)
  · exact hwrote

/-! ### Sizes fit a register (R8)

`DATA_BYTES` is at most 2^32 - 13, so neither the length of a chunk nor that of its frame wraps around. -/

theorem State.toNat_ofNat_of_le (s : State) {n : Nat} (hn : n ≤ 12 + s.dataBytes.val) :
    (BitVec.ofNat 32 n).toNat = n := by
  have hsize := s.dataBytes.isLt
  exact (BitVec.toNat_ofNat n 32).trans (Nat.mod_eq_of_lt (by omega))

theorem State.toNat_ofNat_frame (s : State) (hin : s.payloadInData = true) :
    (BitVec.ofNat 32 (12 + s.length.toNat)).toNat = 12 + s.length.toNat :=
  s.toNat_ofNat_of_le (Nat.add_le_add_left (State.payloadInData_iff.mp hin) 12)

theorem State.installChunk_length_toNat (s : State) (t : Word) {d : List Byte} (c : Word)
    (hd : d.length ≤ s.dataBytes.val) : (s.installChunk t d c).length.toNat = d.length :=
  s.toNat_ofNat_of_le (by omega)

/-- The payload of the chunk that CHUNK_PARSE reads has the length its frame gives. -/
@[simp] theorem State.framePayload_length (s : State) : s.framePayload.length = s.frameLength :=
  s.windowBytes_length 8 s.frameLength

/-! ### The invariant at reset -/

theorem State.reset_inv : State.reset.Inv where
  canonical := rfl
  inRange := rfl
  errLegal := rfl
  chunkSound := rfl
  outSound := rfl
  consumedSound := rfl

/-- Settles O51: at reset no presence flag is set and no byte is written. -/
theorem resetStateMeetsInv : Obligations.ResetStateMeetsInv := State.reset_inv

/-! ### The invariant under each update of the state -/

section Updates

variable {s : State}

/-- The codes a command raises are codes the block writes (R25). -/
theorem code_legal_of_raises (i : Instr) : ∀ e ∈ Instr.raises i, legalErrors.contains e.code = true := by
  cases i <;> decide

theorem State.Inv.settle (h : s.Inv) {e : ErrorCode} (he : legalErrors.contains e.code = true) :
    (s.settle e).Inv :=
  { h with errLegal := he }

theorem State.Inv.loadType (h : s.Inv) (t : Word) : (s.loadType t).Inv := { h with }

theorem State.Inv.setCrcOut (h : s.Inv) (c : Word) : (s.setCrcOut c).Inv := { h with }

theorem State.Inv.setInLen (h : s.Inv) (v : Word) : (s.setInLen v).Inv := { h with }

theorem State.Inv.setInOff (h : s.Inv) (v : Word) : (s.setInOff v).Inv := { h with }

theorem State.Inv.setTypeIn (h : s.Inv) (v : Word) : (s.setTypeIn v).Inv := { h with }

theorem State.Inv.answer (h : s.Inv) (r : Response) : (s.answer r).Inv := { h with }

theorem State.Inv.take (h : s.Inv) (rest : List Transaction) : (s.take rest).Inv := { h with }

/-- Whatever the size a RESET keeps, the reset state meets the invariant on it. -/
theorem State.restart_inv (s : State) : s.restart.Inv := { State.reset_inv with inRange := rfl }

theorem State.buffersCanonical_iff :
    s.buffersCanonical = true ↔ (s.input.wf = true ∧ s.data.wf = true) ∧ s.out.wf = true := by
  simp [State.buffersCanonical]

theorem State.buffersInRange_iff :
    s.buffersInRange = true ↔ (s.input.within s.inBytes = true ∧ s.data.within s.dataBytes.val = true) ∧
      s.out.within s.outBytes = true := by
  simp [State.buffersInRange]

theorem State.Inv.writeInput (h : s.Inv) {i : Nat} (hi : i < s.inBytes) (b : Byte) :
    (s.writeInput i b).Inv :=
  { h with
    canonical := State.buffersCanonical_iff.mpr
      ⟨⟨Memory.wf_put h.input.1 i b, h.data.1⟩, h.outBuffer.1⟩
    inRange := State.buffersInRange_iff.mpr
      ⟨⟨Memory.within_put h.input.2 hi b, h.data.2⟩, h.outBuffer.2⟩ }

/-- The chunk is sound when the bytes of its payload are stored and its CRC is theirs (R37, R43). -/
theorem State.chunkSound_of_stored {d : List Byte} (hin : s.payloadInData = true)
    (hstored : s.data.stored 0 s.length.toNat = some d) (hcrc : s.crc = chunkCrc s.chType d) :
    s.chunkSound = true := by
  simp [State.chunkSound, hin, hstored, hcrc, chunkCrc]

/-- A new chunk that fits DATA and has the right CRC keeps the invariant: OUT_VALID and CONSUMED_VALID, which spoke of
the old chunk, are cleared. -/
theorem State.Inv.installChunk (h : s.Inv) (t : Word) {d : List Byte} (hd : d.length ≤ s.dataBytes.val) :
    (s.installChunk t d (chunkCrc t d)).Inv where
  canonical := State.buffersCanonical_iff.mpr
    ⟨⟨h.input.1, Memory.wf_putBytes h.data.1 0 d⟩, h.outBuffer.1⟩
  inRange := State.buffersInRange_iff.mpr
    ⟨⟨h.input.2, Memory.within_putBytes h.data.2 (by omega)⟩, h.outBuffer.2⟩
  errLegal := h.errLegal
  chunkSound := by
    have hlen := s.installChunk_length_toNat t (chunkCrc t d) hd
    refine State.chunkSound_of_stored (d := d) ?_ ?_ rfl
    · exact State.payloadInData_iff.mpr (hlen.trans_le hd)
    · rw [hlen]
      exact Memory.stored_putBytes s.data 0 d
  outSound := rfl
  consumedSound := rfl

/-- CONSUMED may record the length of the current chunk's frame (R39). -/
theorem State.Inv.setConsumed (h : s.Inv) (hvalid : s.status.chunkValid = true) {n : Nat}
    (hn : n = 12 + s.length.toNat) : (s.setConsumed n).Inv :=
  { h with
    consumedSound := by
      obtain ⟨hin, _, _⟩ := h.chunk hvalid
      simp [State.consumedSound, hvalid, hn, s.toNat_ofNat_frame hin, -BitVec.toNat_ofNat] }

/-- The chunk CHUNK_PARSE installs: its CRC is the one computed, over the type bytes as read (R95). -/
theorem State.Inv.parsed (h : s.Inv) (hfits : s.frameLength ≤ s.dataBytes.val)
    (hcrc : s.frameComputedCrc = s.frameCrc) : s.parsed.Inv := by
  have hd : s.framePayload.length ≤ s.dataBytes.val := by simpa using hfits
  have hright : s.frameCrc = chunkCrc s.frameType s.framePayload := by
    rw [← hcrc, chunkCrc, State.frameType, bytesBE32_be32 (s.windowBytes_length 4 4), State.frameComputedCrc]
  have hnew := h.installChunk s.frameType hd
  rw [← hright] at hnew
  refine hnew.setConsumed rfl ?_
  rw [s.installChunk_length_toNat _ _ hd, State.framePayload_length]

/-- The serialization of the current chunk, written to OUT, is what OUT_VALID promises (R28, R40). -/
theorem State.Inv.emit_frame (h : s.Inv) (hvalid : s.status.chunkValid = true) :
    (s.emit (frameBytes s.length s.chType s.payload s.crc) (12 + s.length.toNat)).Inv := by
  obtain ⟨hin, hstored, _⟩ := h.chunk hvalid
  have hfits : s.length.toNat ≤ s.dataBytes.val := State.payloadInData_iff.mp hin
  have hframe : (frameBytes s.length s.chType s.payload s.crc).length = 12 + s.length.toNat := by
    rw [frameBytes_length, State.payload_length]
  have hout := Memory.stored_putBytes s.out 0 (frameBytes s.length s.chType s.payload s.crc)
  rw [hframe] at hout
  exact { h with
    canonical := State.buffersCanonical_iff.mpr
      ⟨⟨h.input.1, h.data.1⟩, Memory.wf_putBytes h.outBuffer.1 0 _⟩
    inRange := State.buffersInRange_iff.mpr
      ⟨⟨h.input.2, h.data.2⟩, Memory.within_putBytes h.outBuffer.2 (by rw [hframe, State.outBytes]; omega)⟩
    outSound := by
      simp only [State.outSound, State.emit_status, State.emit_outLen, State.emit_length, State.emit_data,
        State.emit_out, State.emit_chType, State.emit_crc, s.toNat_ofNat_frame hin, hstored, hout, hvalid]
      simp [frameBytes] }

end Updates

/-! ### The invariant after a step -/

theorem Wrote.inv {i : Instr} {s u : State} (hs : s.Inv) (h : Wrote s i u) : u.Inv := by
  cases h with
  | fromBytes => exact hs.loadType _
  | fromString => exact hs.loadType _
  | fromChunk => exact hs.loadType _
  | new _ _ hn => exact hs.installChunk _ (by simpa using hn)
  | parse _ hl _ hc => exact hs.parsed hl hc
  | serialize hv _ => exact hs.emit_frame hv
  | utf8 => exact hs
  | crc => exact hs.setCrcOut _

theorem exec_inv {i : Instr} {s t : State} (hs : s.Inv) (h : exec i s = .next t) : t.Inv := by
  obtain ⟨e, he, rfl⟩ | ⟨u, hu, rfl⟩ := exec_cases h
  · exact hs.settle (code_legal_of_raises i e he)
  · exact (hu.inv hs).settle rfl

theorem runCommand_inv {w : Word} {s t : State} (hs : s.Inv) (h : runCommand w s = .next t) : t.Inv := by
  obtain ⟨i, _, hi⟩ | ⟨_, rfl⟩ := runCommand_cases h
  · exact exec_inv hs hi
  · exact hs.settle rfl

theorem Did.inv {tr : Transaction} {s t : State} (hs : s.Inv) (h : Did s tr t) : t.Inv := by
  cases h with
  | readReg r => exact hs.answer _
  | readByte sp i => exact hs.answer _
  | command w _ hw => exact runCommand_inv hs hw
  | inLen v => exact hs.setInLen v
  | inOff v => exact hs.setInOff v
  | typeIn v => exact hs.setTypeIn v
  | readOnly => exact hs
  | writeByte i v hi => exact hs.writeInput hi _
  | reset => exact s.restart_inv

/-- Settles O52: by the one transaction the step performs. -/
theorem invHoldsAfterEveryStep : Obligations.InvHoldsAfterEveryStep := by
  unfold Obligations.InvHoldsAfterEveryStep
  intro s t hs h
  obtain ⟨_, rfl⟩ | ⟨tr, rest, _, hdid⟩ := step_cases h
  · exact hs
  · exact hdid.inv (hs.take rest)

/-! ### The write matrix (R49) -/

/-- DATA at and past the new LENGTH keeps every byte. -/
theorem State.installChunk_data_cell_past (s : State) (t : Word) {d : List Byte} (c : Word)
    (hd : d.length ≤ s.dataBytes.val) {a : Nat} (ha : (s.installChunk t d c).length.toNat ≤ a) :
    (s.installChunk t d c).data.cell a = s.data.cell a := by
  rw [s.installChunk_length_toNat t c hd] at ha
  exact Memory.cell_putBytes_outside s.data d (.inr (by omega))

/-- Settles O21: each clause is a row of the matrix, read off what the successful command wrote. -/
theorem commandsWriteTheirStateOnly : Obligations.CommandsWriteTheirStateOnly := by
  unfold Obligations.CommandsWriteTheirStateOnly
  intro s t
  refine ⟨fun i h herr => exec_error h herr, fun i hi h herr => ?load, fun h herr => ?new,
    fun h herr => ?parse, fun h herr => ?serialize, fun h herr => ?utf8, fun h herr => ?crc⟩
  all_goals obtain ⟨u, hu, rfl⟩ := exec_ok h herr
  case load =>
    cases hu with
    | fromBytes | fromString | fromChunk => exact ⟨rfl, rfl⟩
    | new | parse | serialize | utf8 | crc => simp at hi
  case new =>
    cases hu with
    | new _ _ hn =>
      exact ⟨rfl, fun a ha =>
        s.installChunk_data_cell_past s.ctype (chunkCrc s.ctype s.window) (by simpa using hn) ha⟩
  case parse =>
    cases hu with
    | parse _ hl _ _ =>
      exact ⟨rfl, fun a ha => s.installChunk_data_cell_past s.frameType s.frameCrc (by simpa using hl) ha⟩
  case serialize =>
    cases hu with
    | serialize _ hp =>
      refine ⟨rfl, s.toNat_ofNat_frame hp, fun a ha => ?_⟩
      refine Memory.cell_putBytes_outside s.out _ (.inr ?_)
      rw [frameBytes_length, State.payload_length]
      omega
  case utf8 =>
    cases hu with
    | utf8 => rfl
  case crc =>
    cases hu with
    | crc => rfl

/-! ### The STATUS word (R24, R42) -/

theorem Status.word_extract_err (st : Status) : st.word.extractLsb' 0 8 = st.err := by
  apply BitVec.eq_of_getLsbD_eq
  intro j hj
  have h32 : j < 32 := by omega
  have hflags : j ≠ 8 ∧ j ≠ 9 ∧ j ≠ 10 ∧ j ≠ 11 ∧ j ≠ 12 := by omega
  rw [BitVec.getLsbD_extractLsb', Status.word_getLsbD, Nat.zero_add]
  simp [hj, h32, hflags]

theorem Status.word_reserved (st : Status) {j : Nat} (hj : 13 ≤ j) : st.word.getLsbD j = false := by
  have hflags : j ≠ 8 ∧ j ≠ 9 ∧ j ≠ 10 ∧ j ≠ 11 ∧ j ≠ 12 := by omega
  rw [Status.word_getLsbD, BitVec.getLsbD_of_ge st.err j (by omega)]
  simp [hflags]

/-- Settles O39: bit by bit of the STATUS word. -/
theorem statusWordHoldsItsFields : Obligations.StatusWordHoldsItsFields := by
  unfold Obligations.StatusWordHoldsItsFields
  intro st
  refine ⟨st.word_extract_err, ?_, ?_, ?_, ?_, ?_, fun j hj => st.word_reserved hj⟩
  all_goals
    rw [Status.word_getLsbD]
    simp

/-! ### Presence flags that only reset clears (R26, R27, R29) -/

/-- A word decodes to a command only if it is that command's word. -/
theorem eq_encode_of_decode {w : Word} {i : Instr} (h : decode w = .ok i) : w = encode i := by
  obtain ⟨hrsvd, hop⟩ := fields_of_decode h
  exact word_eq_of_fields (hop.trans (opField_encode i).symm) (hrsvd.trans (rsvdField_encode i).symm)

/-- A presence flag that the commands `setters` set when they succeed, and that no command clears. -/
structure PresenceFlag (flag : Status → Bool) (setters : List Instr) : Prop where
  ignoresErr : ∀ st e, flag { st with err := e } = flag st
  clearAtReset : flag State.reset.status = false
  wrote : ∀ {i s u}, Wrote s i u → (flag u.status = true ↔ i ∈ setters ∨ flag s.status = true)

theorem typeValid_presenceFlag :
    PresenceFlag Status.typeValid [.ctFromBytes, .ctFromString, .ctFromChunk] where
  ignoresErr _ _ := rfl
  clearAtReset := rfl
  wrote h := by cases h <;> simp [State.parsed]

theorem chunkValid_presenceFlag : PresenceFlag Status.chunkValid [.chunkNew, .chunkParse] where
  ignoresErr _ _ := rfl
  clearAtReset := rfl
  wrote h := by cases h <;> simp [State.parsed]

theorem crcOutValid_presenceFlag : PresenceFlag Status.crcOutValid [.crcCompute] where
  ignoresErr _ _ := rfl
  clearAtReset := rfl
  wrote h := by cases h <;> simp [State.parsed]

section Flag

variable {flag : Status → Bool} {setters : List Instr} (hflag : PresenceFlag flag setters)
include hflag

theorem PresenceFlag.settle (s : State) (e : ErrorCode) : flag (s.settle e).status = flag s.status :=
  hflag.ignoresErr s.status e.code

/-- After a command the flag is set if one of its setters has succeeded, or if it was set before. -/
theorem PresenceFlag.exec_iff {i : Instr} {s t : State} (h : exec i s = .next t) :
    flag t.status = true ↔ (i ∈ setters ∧ t.status.err = 0) ∨ flag s.status = true := by
  obtain ⟨e, he, rfl⟩ | ⟨u, hu, rfl⟩ := exec_cases h
  · have hfail : ¬ (i ∈ setters ∧ (s.settle e).status.err = 0) := fun hok => code_ne_zero_of_raises he hok.2
    rw [hflag.settle, or_iff_right hfail]
  · have herr : (u.settle .ok).status.err = 0 := rfl
    rw [hflag.settle, hflag.wrote hu, and_iff_left herr]

/-- A transaction other than RESET keeps the flag. -/
theorem PresenceFlag.kept {tr : Transaction} {s t : State} (h : Did s tr t) (hreset : tr ≠ .reset)
    (hset : flag s.status = true) : flag t.status = true := by
  cases h with
  | command w _ hw =>
    obtain ⟨i, _, hi⟩ | ⟨_, rfl⟩ := runCommand_cases hw
    · exact (hflag.exec_iff hi).mpr (.inr hset)
    · rwa [hflag.settle]
  | readReg | readByte | inLen | inOff | typeIn | readOnly | writeByte => exact hset
  | reset => exact absurd rfl hreset

/-- A transaction that sets the flag is a CMD write of one of its setters, which succeeded. -/
theorem PresenceFlag.set_by_setter {tr : Transaction} {s t : State} (h : Did s tr t)
    (hclear : flag s.status = false) (hset : flag t.status = true) :
    ∃ i ∈ setters, tr = regWrite 0x00 (encode i) ∧ t.status.err = 0 := by
  have hne : flag s.status ≠ true := by simp [hclear]
  cases h with
  | command w _ hw =>
    obtain ⟨i, hdecode, hi⟩ | ⟨_, rfl⟩ := runCommand_cases hw
    · obtain ⟨hmem, herr⟩ := ((hflag.exec_iff hi).mp hset).resolve_right hne
      exact ⟨i, hmem, by rw [eq_encode_of_decode hdecode], herr⟩
    · exact absurd ((hflag.settle s _).symm.trans hset) hne
  | readReg | readByte | inLen | inOff | typeIn | readOnly | writeByte => exact absurd hset hne
  | reset => exact absurd (hflag.clearAtReset.symm.trans hset) Bool.false_ne_true

end Flag

/-- Settles O49: each of the three is a presence flag with its own setters. -/
theorem presenceFlagsSetOnceKept : Obligations.PresenceFlagsSetOnceKept := by
  unfold Obligations.PresenceFlagsSetOnceKept
  refine ⟨fun s t h herr => exec_error h herr, fun i s t h herr => ?set, fun s t tr h hreset => ?kept,
    fun s t tr h => ?only⟩
  case set =>
    exact ⟨fun hi => (typeValid_presenceFlag.exec_iff h).mpr (.inl ⟨hi, herr⟩),
      fun hi => (chunkValid_presenceFlag.exec_iff h).mpr (.inl ⟨hi, herr⟩),
      fun hi => (crcOutValid_presenceFlag.exec_iff h).mpr (.inl ⟨by simp [hi], herr⟩)⟩
  case kept =>
    have hdid := transact_cases h
    exact ⟨typeValid_presenceFlag.kept hdid hreset, chunkValid_presenceFlag.kept hdid hreset,
      crcOutValid_presenceFlag.kept hdid hreset⟩
  case only =>
    have hdid := transact_cases h
    exact ⟨typeValid_presenceFlag.set_by_setter hdid, chunkValid_presenceFlag.set_by_setter hdid,
      crcOutValid_presenceFlag.set_by_setter hdid⟩

/-! ### OUT_VALID and CONSUMED_VALID (R28, R30) -/

/-- Settles O50: the flags from what each command wrote, and OUT from the invariant. -/
theorem outAndConsumedFlagsFollowTheChunk : Obligations.OutAndConsumedFlagsFollowTheChunk := by
  unfold Obligations.OutAndConsumedFlagsFollowTheChunk
  refine ⟨fun s t h herr => ?serialize, fun s t h herr => ?new, fun s t h herr => ?parse, fun s hs hvalid => ?out⟩
  case out =>
    obtain ⟨_, _, hstored⟩ := hs.out hvalid
    exact hstored
  all_goals obtain ⟨u, hu, rfl⟩ := exec_ok h herr
  case serialize =>
    cases hu with
    | serialize => rfl
  case new =>
    cases hu with
    | new => exact ⟨rfl, rfl⟩
  case parse =>
    cases hu with
    | parse => exact ⟨rfl, rfl⟩

/-! ### A payload past DATA (R37, R54) -/

theorem withPayload_of_pastData {s : State} {k : List Byte → Outcome} (h : s.payloadInData = false) :
    withPayload s k = .fault .payloadOutsideData := by
  simp [withPayload, h]

/-- Settles O18: both commands find the chunk and then the payload past DATA. -/
theorem payloadPastDataFaults : Obligations.PayloadPastDataFaults := by
  unfold Obligations.PayloadPastDataFaults
  intro s hvalid hpast
  have hout : s.payloadInData = false := decide_eq_false (by omega)
  exact ⟨(withChunk_of_valid hvalid).trans (withPayload_of_pastData hout),
    (withChunk_of_valid hvalid).trans (withPayload_of_pastData hout)⟩

/-! ### Reset (R48, R161, R190) -/

/-- A register with a presence flag has no defined value at reset. -/
theorem reset_regValue_eq_none :
    ∀ r ∈ [Reg.ctype, .props, .chType, .length, .crc, .consumed, .outLen, .crcOut],
      State.reset.regValue r = none := by
  decide

/-- Settles O47: the reset table, register by register. -/
theorem resetLeavesTheResetTable : Obligations.ResetLeavesTheResetTable := by
  unfold Obligations.ResetLeavesTheResetTable
  refine ⟨fun s => ?restart, ?status, rfl, rfl, rfl, reset_regValue_eq_none, fun i => ?bytes⟩
  case restart => rfl
  case status => decide
  case bytes => exact ⟨Memory.cell_nil i, Memory.cell_nil i, Memory.cell_nil i⟩

end Sys2Proof.Machine

/-! PROOFS. The address spaces and the host's accesses to them (R50 to R62): a step takes one transaction, a read
changes nothing, and the refused accesses are those of R56. -/

namespace Sys2Proof.Machine

/-! ### One transaction a step (R61, R150) -/

/-- The host's transactions are no state of the block: no command writes them. -/
theorem Wrote.pending_eq {i : Instr} {s u : State} (h : Wrote s i u) : u.pending = s.pending := by
  cases h <;> rfl

theorem runCommand_keeps_pending {w : Word} {s t : State} (h : runCommand w s = .next t) :
    t.pending = s.pending := by
  obtain ⟨i, _, hi⟩ | ⟨_, rfl⟩ := runCommand_cases h
  · obtain ⟨e, _, rfl⟩ | ⟨u, hu, rfl⟩ := exec_cases hi
    · exact State.settle_pending s e
    · exact (State.settle_pending u .ok).trans hu.pending_eq
  · exact State.settle_pending s .illegalCommand

/-- Performing a transaction leaves those still to come alone; a RESET does so by its definition (log entry 15). -/
theorem Did.pending_eq {tr : Transaction} {s t : State} (h : Did s tr t) : t.pending = s.pending := by
  cases h with
  | command w _ hw => exact runCommand_keeps_pending hw
  | readReg | readByte | inLen | inOff | typeIn | readOnly | writeByte | reset => rfl

/-- Settles O8: a step takes the transaction it performs, and performing it takes no other. -/
theorem stepTakesOneTransaction : Obligations.StepTakesOneTransaction := by
  unfold Obligations.StepTakesOneTransaction
  intro s t h
  obtain ⟨hnone, rfl⟩ | ⟨tr, rest, hpending, hdid⟩ := step_cases h
  · rw [hnone, List.tail_nil]
  · rw [hpending, List.tail_cons, hdid.pending_eq, State.take_pending]

/-! ### Reads (R62) -/

/-- Settles O45: a read that answers has read a register or a buffer byte, and both only answer. -/
theorem readsChangeNoState : Obligations.ReadsChangeNoState := by
  unfold Obligations.ReadsChangeNoState
  intro s t sp off width h
  cases transact_cases h with
  | readReg | readByte => rfl

/-! ### Refusals (R51, R56, R60) -/

/-- The registers fill REG from 0x00 to 0x30, one at every multiple of 4 (R20, R51). -/
theorem Reg.exists_offset_iff {off : Nat} : (∃ r : Reg, r.offset = off) ↔ off % 4 = 0 ∧ off ≤ 0x30 := by
  constructor
  · rintro ⟨r, rfl⟩
    cases r <;> decide
  · rintro ⟨h4, hle⟩
    have hmapped : ∀ n : Fin 13, ∃ r ∈ Reg.all, r.offset = 4 * n.val := by decide
    obtain ⟨r, _, hr⟩ := hmapped ⟨off / 4, by omega⟩
    exact ⟨r, hr.trans (by simp only; omega)⟩

/-- Only a register access that finds no register is refused, where nothing done with a register is. -/
theorem withRegister_refused_iff {off width : Nat} {k : Reg → Outcome} (hk : ∀ r q, k r ≠ .refused q) :
    (∃ q, withRegister off width k = .refused q) ↔ width ≠ 32 ∨ off % 4 ≠ 0 ∨ 0x30 < off := by
  constructor
  · rintro ⟨q, hq⟩
    by_contra hlisted
    obtain ⟨r, rfl⟩ := Reg.exists_offset_iff.mpr (⟨by omega, by omega⟩ : off % 4 = 0 ∧ off ≤ 0x30)
    obtain rfl : width = 32 := by omega
    exact hk r q ((withRegister_offset r k).symm.trans hq)
  · intro hlisted
    unfold withRegister
    split
    · exact ⟨_, rfl⟩
    · split
      · exact ⟨_, rfl⟩
      · split
        · have hmapped := Reg.exists_offset_iff.mp ⟨_, Reg.offset_of_ofOffset ‹_›⟩
          omega
        · exact ⟨_, rfl⟩

/-- Only a buffer access of the wrong width or outside the buffer is refused, where nothing done inside it is. -/
theorem withBufferByte_refused_iff {s : State} {sp : Space} {i width : Nat} {k : Outcome}
    (hk : ∀ q, k ≠ .refused q) :
    (∃ q, withBufferByte s sp i width k = .refused q) ↔ width ≠ 8 ∨ s.capacity sp ≤ i := by
  constructor
  · rintro ⟨q, hq⟩
    by_contra hlisted
    obtain rfl : width = 8 := by omega
    exact hk q ((withBufferByte_of_lt (by omega)).symm.trans hq)
  · intro hlisted
    unfold withBufferByte
    split
    · exact ⟨_, rfl⟩
    · rw [if_pos (by omega)]
      exact ⟨_, rfl⟩

theorem next_not_refused (s : State) (q : Refusal) : (.next s : Outcome) ≠ .refused q := nofun

/-- A CMD write is never refused: an illegal word is an error of the block, no ground of R56 (R75). -/
theorem runCommand_not_refused (w : Word) (s : State) (q : Refusal) : runCommand w s ≠ .refused q := by
  unfold runCommand
  split
  · exact exec_not_refused _ s q
  · exact next_not_refused _ q

theorem writeReg_not_refused (r : Reg) (v : Word) (s : State) (q : Refusal) : writeReg r v s ≠ .refused q := by
  cases r with
  | cmd => exact runCommand_not_refused v s q
  | status | inLen | inOff | typeIn | ctype | props | chType | length | crc | consumed | outLen | crcOut =>
    exact next_not_refused _ q

/-- Settles O46: an access is refused by its space's check or not at all, and a write to DATA or OUT always. -/
theorem refusedTransactionsAreTheListed : Obligations.RefusedTransactionsAreTheListed := by
  unfold Obligations.RefusedTransactionsAreTheListed
  intro s tr
  cases tr with
  | read sp off width =>
    cases sp with
    | reg => exact withRegister_refused_iff fun _ => next_not_refused _
    | input | data | out => exact withBufferByte_refused_iff (next_not_refused _)
  | write sp off width v =>
    cases sp with
    | reg => exact withRegister_refused_iff fun r => writeReg_not_refused r v s
    | input => exact withBufferByte_refused_iff (next_not_refused _)
    | data | out => exact iff_of_true ⟨_, rfl⟩ trivial
  | reset => exact iff_of_false (fun ⟨q, hq⟩ => next_not_refused _ q hq) id

end Sys2Proof.Machine

/-! PROOFS. Command words (R70 to R77): decoding and encoding agree, the legal words are eight, and every other word
written to CMD reports IllegalCommand and nothing else. -/

namespace Sys2Proof.Machine

/-! ### The decoder against the encoder (R71, R73, R74) -/

/-- The decoder inverts the encoder, and reads a command from no other word. -/
theorem decode_eq_ok_iff {w : Word} {i : Instr} : decode w = .ok i ↔ w = encode i := by
  constructor
  · exact eq_encode_of_decode
  · rintro rfl
    exact decode_encode i

/-- Settles O1: the word of a command decodes to it, and a word that decodes has the fields of its command's word. -/
theorem decodeInvertsEncode : Obligations.DecodeInvertsEncode := by
  unfold Obligations.DecodeInvertsEncode
  exact fun _ _ => decode_eq_ok_iff

/-- Settles O3: the eight words are those the encoder writes; each of the other two fails one test of the decoder. -/
theorem opcodeMapWordsDecode : Obligations.OpcodeMapWordsDecode := by
  unfold Obligations.OpcodeMapWordsDecode
  refine ⟨decode_encode .ctFromBytes, decode_encode .ctFromString, decode_encode .ctFromChunk,
    decode_encode .chunkNew, decode_encode .chunkParse, decode_encode .chunkSerialize, decode_encode .chunkUtf8,
    decode_encode .crcCompute, ?reserved, ?unassigned⟩
  case reserved => decide
  case unassigned => decide

/-! ### Legal words (R74) -/

/-- The OP values R73 assigns are those of the commands. -/
theorem mem_assignedOps_iff {b : Byte} : b ∈ assignedOps ↔ ∃ i : Instr, i.opcode = b := by
  constructor
  · intro hb
    have hmap : assignedOps = Instr.all.map Instr.opcode := rfl
    rw [hmap, List.mem_map] at hb
    obtain ⟨i, _, hi⟩ := hb
    exact ⟨i, hi⟩
  · rintro ⟨i, rfl⟩
    cases i <;> decide

/-- A word is legal exactly when RSVD is zero and OP is assigned. -/
theorem exists_decode_iff {w : Word} : (∃ i, decode w = .ok i) ↔ rsvdField w = 0 ∧ opField w ∈ assignedOps := by
  rw [mem_assignedOps_iff]
  constructor
  · rintro ⟨i, hi⟩
    obtain ⟨hrsvd, hop⟩ := fields_of_decode hi
    exact ⟨hrsvd, i, hop.symm⟩
  · rintro ⟨hrsvd, i, hop⟩
    have hword : w = encode i :=
      word_eq_of_fields (hop.symm.trans (opField_encode i).symm) (hrsvd.trans (rsvdField_encode i).symm)
    exact ⟨i, decode_eq_ok_iff.mpr hword⟩

theorem rsvdField_and_rsvdMask (w : Word) : rsvdField (w &&& 0xFFFFFF00) = rsvdField w :=
  BitVec.extractLsb'_and.trans BitVec.and_allOnes

theorem opField_and_rsvdMask (w : Word) : opField (w &&& 0xFFFFFF00) = 0 :=
  BitVec.extractLsb'_and.trans BitVec.and_zero

/-- The mask test of R74: the masked word keeps RSVD and clears OP, so it is zero exactly when RSVD is. -/
theorem rsvdField_eq_zero_iff {w : Word} : rsvdField w = 0 ↔ w &&& 0xFFFFFF00 = 0 := by
  constructor
  · intro hrsvd
    exact word_eq_of_fields (opField_and_rsvdMask w) ((rsvdField_and_rsvdMask w).trans hrsvd)
  · intro hmask
    rw [← rsvdField_and_rsvdMask, hmask]
    rfl

/-- Settles O2: the two fields, the mask of RSVD, and the mask of the whole word, which changes nothing. -/
theorem legalWordsAreTheEight : Obligations.LegalWordsAreTheEight := by
  unfold Obligations.LegalWordsAreTheEight
  refine fun w => ⟨exists_decode_iff, rsvdField_eq_zero_iff, fun i => ?wholeWord⟩
  have hfull : w &&& 0xFFFFFFFF = w := BitVec.and_allOnes
  rw [hfull]
  exact decode_eq_ok_iff

/-! ### Illegal words (R75) -/

/-- The OP values R73 leaves unassigned are the ranges R75 lists. -/
theorem not_mem_assignedOps_iff {b : Byte} :
    b ∉ assignedOps ↔
      b.toNat = 0 ∨ (0x04 ≤ b.toNat ∧ b.toNat ≤ 0x0F) ∨ (0x14 ≤ b.toNat ∧ b.toNat ≤ 0x1F) ∨ 0x21 ≤ b.toNat := by
  simp only [assignedOps, List.mem_cons, List.not_mem_nil, or_false]
  bv_omega

/-- A word without a command executes as the error commit. -/
theorem runCommand_of_illegal {w : Word} (h : ¬ ∃ i, decode w = .ok i) (s : State) :
    runCommand w s = raise .illegalCommand s := by
  unfold runCommand
  split
  · exact absurd ⟨_, ‹_›⟩ h
  · rfl

/-- A write at CMD's offset runs the word written (R152). -/
theorem transact_cmdWrite (w : Word) (s : State) : transact (regWrite 0x00 w) s = runCommand w s :=
  withRegister_offset .cmd fun r => writeReg r w s

/-- Settles O4: illegal is not legal, field by field; and the error commit is all a CMD write of such a word does. -/
theorem illegalWordReportsAndNothingElse : Obligations.IllegalWordReportsAndNothingElse := by
  unfold Obligations.IllegalWordReportsAndNothingElse
  refine fun w => ⟨?ranges, fun s hillegal => ?errorCommit⟩
  case ranges =>
    rw [exists_decode_iff, not_and_or]
    exact or_congr Iff.rfl not_mem_assignedOps_iff
  case errorCommit =>
    calc transact (regWrite 0x00 w) s
      _ = runCommand w s := transact_cmdWrite w s
      _ = raise .illegalCommand s := runCommand_of_illegal hillegal s
      _ = .next (s.failed 8) := congrArg Host.Outcome.next (s.settle_eq_failed .illegalCommand)

end Sys2Proof.Machine

/-! PROOFS. The CRC unit (R90 to R96): the CRC is the catalogue's CRC-32 and the table method's, it depends on every
byte and on their order, and CRC_COMPUTE stores it. -/

namespace Sys2Proof.Machine

/-! ### Several bits at once (R90) -/

theorem crcEightBits_eq_iterate (c : Word) : crcEightBits c = crcBit^[8] c := rfl

/-- Steps that shift out only clear bits are a shift. -/
theorem iterate_crcBit_of_low_zero {c : Word} {n : Nat} (h : ∀ i < n, c.getLsbD i = false) :
    crcBit^[n] c = c >>> n := by
  induction n with
  | zero => simp
  | succ n ih =>
    have heven : (c >>> n).getLsbD 0 = false := by simpa using h n n.lt_succ_self
    rw [Function.iterate_succ_apply', ih fun i hi => h i (by omega), crcBit_of_even heven,
      ← BitVec.shiftRight_add]

/-- A step that leaves the top bit clear shifted out a clear bit, so it halved the remainder. -/
theorem toNat_of_crcBit_lt {c : Word} (h : (crcBit c).toNat < 2 ^ 31) : c.toNat = 2 * (crcBit c).toNat := by
  have hlow : c.getLsbD 0 = false := by
    rw [← crcBit_top]
    exact Nat.testBit_lt_two_pow h
  have hmod : c.toNat % 2 = 0 := by simpa [BitVec.getLsbD] using hlow
  rw [crcBit_of_even hlow, BitVec.toNat_ushiftRight, Nat.shiftRight_eq_div_pow]
  omega

/-- Steps that leave their top bits clear all halved the remainder. -/
theorem toNat_of_iterate_crcBit_lt {c : Word} {n : Nat} (hn : n ≤ 32) (h : (crcBit^[n] c).toNat < 2 ^ (32 - n)) :
    c.toNat = 2 ^ n * (crcBit^[n] c).toNat := by
  induction n generalizing c with
  | zero => simp
  | succ n ih =>
    rw [Function.iterate_succ_apply] at h ⊢
    have hpow : 2 ^ (32 - n) = 2 * 2 ^ (32 - (n + 1)) := by rw [← pow_succ']; congr 1; omega
    have hstep : (crcBit c).toNat = 2 ^ n * (crcBit^[n] (crcBit c)).toNat := ih (by omega) (by omega)
    have hlt : (crcBit c).toNat < 2 ^ 31 := by
      calc (crcBit c).toNat
        _ = 2 ^ n * (crcBit^[n] (crcBit c)).toNat := hstep
        _ < 2 ^ n * 2 ^ (32 - (n + 1)) := by gcongr
        _ = 2 ^ 31 := by rw [← pow_add]; congr 1; omega
    rw [toNat_of_crcBit_lt hlt, hstep, pow_succ', mul_assoc]

/-- R90's inner loop moves every byte but 0: a byte it left in place would be 256 times itself. -/
theorem byte_eq_zero_of_crcEightBits_fixed {d : Byte} (h : crcEightBits (d.setWidth 32) = d.setWidth 32) :
    d = 0 := by
  rw [crcEightBits_eq_iterate] at h
  have hd : (d.setWidth 32).toNat = d.toNat := BitVec.toNat_setWidth_of_le (by omega)
  have hlt := d.isLt
  have hfix := toNat_of_iterate_crcBit_lt (c := d.setWidth 32) (n := 8) (by omega) (by rw [h, hd]; omega)
  rw [h, hd] at hfix
  exact BitVec.eq_of_toNat_eq (show d.toNat = 0 by omega)

/-! ### The catalogue's form (R91) -/

@[simp] theorem getLsbD_reverseBits {w : Nat} (a : BitVec w) (i : Nat) :
    (reverseBits a).getLsbD i = a.getMsbD i := BitVec.getLsbD_reverse

@[simp] theorem getMsbD_reverseBits {w : Nat} (a : BitVec w) (i : Nat) :
    (reverseBits a).getMsbD i = a.getLsbD i := BitVec.getMsbD_reverse

theorem reverseBits_xor {w : Nat} (a b : BitVec w) : reverseBits (a ^^^ b) = reverseBits a ^^^ reverseBits b := by
  apply BitVec.eq_of_getLsbD_eq
  intro i _
  simp

theorem reverseBits_ushiftRight_one {w : Nat} (a : BitVec w) : reverseBits (a >>> 1) = reverseBits a <<< 1 := by
  apply BitVec.eq_of_getMsbD_eq
  intro i _
  simp [Nat.add_comm]

/-- A byte at the bottom of a word, read backwards, is the reversed byte at the top. -/
theorem reverseBits_setWidth_byte (b : Byte) :
    reverseBits (b.setWidth 32) = (reverseBits b).setWidth 32 <<< 24 := by
  apply BitVec.eq_of_getMsbD_eq
  intro i hi
  simp [hi]

/-- The two forms of a bit are mirror images: the polynomials are each other's reversal. -/
theorem reverseBits_crcBit (c : Word) : reverseBits (crcBit c) = catalogueBit (reverseBits c) := by
  have hmsb : (reverseBits c).msb = c.getLsbD 0 := BitVec.msb_reverse
  have hpoly : reverseBits (0xEDB88320 : Word) = 0x04C11DB7 := by decide +kernel
  unfold crcBit catalogueBit
  rw [hmsb]
  split
  · rw [reverseBits_xor, reverseBits_ushiftRight_one, hpoly]
  · exact reverseBits_ushiftRight_one c

theorem reverseBits_crcByte (c : Word) (b : Byte) :
    reverseBits (crcByte c b) = catalogueByte (reverseBits c) b := by
  have hbits : Function.Semiconj reverseBits crcBit catalogueBit := reverseBits_crcBit
  calc reverseBits (crcByte c b)
    _ = reverseBits (crcBit^[8] (c ^^^ b.setWidth 32)) := rfl
    _ = catalogueBit^[8] (reverseBits (c ^^^ b.setWidth 32)) := hbits.iterate_right 8 _
    _ = catalogueByte (reverseBits c) b := by rw [reverseBits_xor, reverseBits_setWidth_byte]; rfl

/-- The remainders of the two forms stay mirror images along every byte sequence. -/
theorem foldl_catalogueByte (c : Word) (s : List Byte) :
    s.foldl catalogueByte (reverseBits c) = reverseBits (crcRemainder c s) :=
  List.foldl_hom reverseBits fun c b => (reverseBits_crcByte c b).symm

theorem crc32_eq_catalogueCrc (s : List Byte) : crc32 s = catalogueCrc s := by
  have hinit : reverseBits (0xFFFFFFFF : Word) = 0xFFFFFFFF := by decide +kernel
  have hfold : s.foldl catalogueByte 0xFFFFFFFF = reverseBits (crcRemainder 0xFFFFFFFF s) := by
    rw [← foldl_catalogueByte, hinit]
  have hback : reverseBits (reverseBits (crcRemainder 0xFFFFFFFF s)) = crcRemainder 0xFFFFFFFF s :=
    BitVec.reverse_reverse_eq
  rw [crc32, catalogueCrc, hfold, hback]

/-- Settles O26: reversing the bits carries the reflected computation into the catalogue's, and the two vectors are
computed. -/
theorem crcIsTheCatalogueCrc : Obligations.CrcIsTheCatalogueCrc := by
  unfold Obligations.CrcIsTheCatalogueCrc
  refine ⟨crc32_eq_catalogueCrc, ?checkValue, ?sourceVector⟩
  case checkValue => decide +kernel
  case sourceVector => decide +kernel

/-! ### The table method (R92) -/

theorem crcTable_getD {n : Nat} (h : n < 256) : crcTable.getD n 0 = crcEightBits (BitVec.ofNat 32 n) := by
  simp [crcTable, h]

/-- The table entry of a word's low byte. -/
theorem crcTable_getD_lowByte (v : Word) : crcTable.getD (v &&& 0xFF).toNat 0 = crcEightBits (v &&& 0xFF) := by
  have hlt : (v &&& 0xFF).toNat < 256 := Nat.lt_of_le_of_lt Nat.and_le_right (by decide)
  rw [crcTable_getD hlt, BitVec.ofNat_toNat, BitVec.setWidth_eq]

/-- R90's inner loop needs a table only for the low byte: the other three are shifted down. -/
theorem crcEightBits_eq_lowByte_xor_shift (v : Word) :
    crcEightBits v = crcEightBits (v &&& 0xFF) ^^^ (v >>> 8) := by
  have hsplit : v = (v &&& 0xFF) ^^^ (v ^^^ (v &&& 0xFF)) := by
    rw [BitVec.xor_comm v, ← BitVec.xor_assoc, BitVec.xor_self, BitVec.zero_xor]
  have hlow : ∀ i < 8, (v ^^^ (v &&& 0xFF)).getLsbD i = false := by
    intro i hi
    have hmask : ∀ i < 8, (0xFF : Word).getLsbD i = true := by decide
    rw [BitVec.getLsbD_xor, BitVec.getLsbD_and, hmask i hi, Bool.and_true, Bool.xor_self]
  have hhigh : (v ^^^ (v &&& 0xFF)) >>> 8 = v >>> 8 := by
    rw [BitVec.ushiftRight_xor_distrib, BitVec.ushiftRight_and_distrib]
    exact (congrArg (v >>> 8 ^^^ ·) BitVec.and_zero).trans BitVec.xor_zero
  calc crcEightBits v
    _ = crcEightBits (v &&& 0xFF) ^^^ crcEightBits (v ^^^ (v &&& 0xFF)) := by rw [← crcEightBits_xor, ← hsplit]
    _ = crcEightBits (v &&& 0xFF) ^^^ (v >>> 8) := by
      rw [crcEightBits_eq_iterate (v ^^^ _), iterate_crcBit_of_low_zero hlow, hhigh]

/-- One byte by the table is one byte of R90: the input byte does not reach past the low byte. -/
theorem table_step_eq_crcByte (c : Word) (b : Byte) :
    crcTable.getD ((c ^^^ b.setWidth 32) &&& 0xFF).toNat 0 ^^^ (c >>> 8) = crcByte c b := by
  have hbyte : b.setWidth 32 >>> 8 = 0 := by
    rw [← BitVec.setWidth_ushiftRight (by omega), BitVec.ushiftRight_eq_zero le_rfl]
    rfl
  have hshift : (c ^^^ b.setWidth 32) >>> 8 = c >>> 8 := by
    rw [BitVec.ushiftRight_xor_distrib, hbyte]
    exact BitVec.xor_zero
  rw [crcTable_getD_lowByte, ← hshift]
  exact (crcEightBits_eq_lowByte_xor_shift _).symm

/-- Settles O27: the two folds agree byte by byte. -/
theorem crcTableMethodAgrees : Obligations.CrcTableMethodAgrees := by
  unfold Obligations.CrcTableMethodAgrees
  intro s
  simp only [tableCrc, table_step_eq_crcByte]
  rfl

/-! ### Every byte and their order (R93) -/

theorem crc32_nil : crc32 [] = 0 := rfl

/-- Different bytes give different remainders. -/
theorem crcByte_injective_byte {c : Word} {x y : Byte} (h : crcByte c x = crcByte c y) : x = y := by
  have hwide : x.setWidth 32 = y.setWidth 32 := (BitVec.xor_right_inj c).mp (crcEightBits_injective h)
  simpa using congrArg (BitVec.setWidth 8) hwide

/-- Two bytes that give the same remainder in either order are equal: their difference is a byte that R90's inner loop
leaves in place. -/
theorem eq_of_crcByte_comm {c : Word} {x y : Byte} (h : crcByte (crcByte c x) y = crcByte (crcByte c y) x) :
    x = y := by
  have hinner : crcByte c x ^^^ y.setWidth 32 = crcByte c y ^^^ x.setWidth 32 := crcEightBits_injective h
  have hfixed : crcEightBits ((x ^^^ y).setWidth 32) = (x ^^^ y).setWidth 32 := by
    simp only [crcByte, crcEightBits_xor, BitVec.setWidth_xor, BitVec.xor_assoc,
      BitVec.xor_right_inj] at hinner ⊢
    rw [← BitVec.xor_eq_zero_iff] at hinner ⊢
    rw [← hinner]
    ac_rfl
  exact BitVec.xor_eq_zero_iff.mp (byte_eq_zero_of_crcEightBits_fixed hfixed)

/-- Sequences with a common start and a common end have equal CRCs only if the remainders meet where the ends
begin. -/
theorem crcRemainder_eq_of_crc32_eq {a b m n : List Byte} (h : crc32 (a ++ (m ++ b)) = crc32 (a ++ (n ++ b))) :
    crcRemainder (crcRemainder 0xFFFFFFFF a) m = crcRemainder (crcRemainder 0xFFFFFFFF a) n := by
  simp only [crc32_eq_iff, crcRemainder_append] at h
  exact crcRemainder_injective h

/-- Settles O28: what follows a change never hides it, so the remainders right after it are compared. -/
theorem crcDependsOnEveryByteAndOrder : Obligations.CrcDependsOnEveryByteAndOrder := by
  unfold Obligations.CrcDependsOnEveryByteAndOrder
  refine ⟨crc32_nil, fun a b x y hxy h => ?changed, fun a b x y hxy h => ?exchanged⟩
  case changed => exact hxy (crcByte_injective_byte (crcRemainder_eq_of_crc32_eq (m := [x]) (n := [y]) h))
  case exchanged => exact hxy (eq_of_crcByte_comm (crcRemainder_eq_of_crc32_eq (m := [x, y]) (n := [y, x]) h))

/-! ### CRC_COMPUTE (R94) -/

theorem execCrcCompute_of_outside {s : State} (h : s.windowInRange = false) :
    execCrcCompute s = .next (s.failed 9) :=
  withWindow_of_outside h

theorem execCrcCompute_of_inRange {s : State} (h : s.windowInRange = true) :
    execCrcCompute s = .next ((s.setCrcOut (crc32 s.window)).settle .ok) :=
  withWindow_of_inRange h

theorem State.window_eq_nil {s : State} (h : s.inOff = s.inLen) : s.window = [] := by
  rw [← List.length_eq_zero_iff, State.window_length, State.windowSize, h, Nat.sub_self]

/-- Settles O17: the window check decides between the error commit and the result. -/
theorem crcComputeStoresWindowCrc : Obligations.CrcComputeStoresWindowCrc := by
  unfold Obligations.CrcComputeStoresWindowCrc
  refine ⟨rfl, fun s => ⟨fun hout => ?outside, fun hin => ?inside, fun hempty => ?empty⟩⟩
  case outside =>
    rw [State.windowOk_iff, Bool.not_eq_true] at hout
    exact execCrcCompute_of_outside hout
  case inside => exact execCrcCompute_of_inRange (State.windowOk_iff.mp hin)
  case empty => rw [State.window_eq_nil hempty, crc32_nil]

end Sys2Proof.Machine

/-! PROOFS. The ChunkType unit (R100 to R114): the letter grammar, the PROPS bits as bits of the type, equality of
types, and the three commands that load CTYPE. -/

namespace Sys2Proof.Machine

/-! ### The letter grammar (R100) -/

/-- A letter is a byte of one of the two ranges of R100. -/
theorem isLetter_iff {b : Byte} :
    isLetter b = true ↔ (0x41 ≤ b.toNat ∧ b.toNat ≤ 0x5A) ∨ (0x61 ≤ b.toNat ∧ b.toNat ≤ 0x7A) := by
  simp [isLetter, BitVec.le_def]

/-- Settles O29: the comparisons of bytes are those of their values. -/
theorem lettersAreTheAsciiLetters : Obligations.LettersAreTheAsciiLetters := by
  unfold Obligations.LettersAreTheAsciiLetters
  exact fun _ => isLetter_iff

/-! ### The bits of PROPS (R102 to R108) -/

/-- A property that is set by a clear bit 5 of type byte `i`, read from the packed type (R101). -/
theorem not_propertyBit_iff (t : Word) {i : Nat} (hi : i < 4) :
    (!propertyBit t i) = true ↔ t.getLsbD (29 - 8 * i) = false := by
  rw [propertyBit_eq t hi, Bool.not_eq_true']

/-- VALID is a conjunction (R107). -/
theorem typeIsValid_iff (t : Word) :
    typeIsValid t = true ↔ reservedValid t = true ∧ letterAt t 0 = true ∧ letterAt t 1 = true ∧
      letterAt t 2 = true ∧ letterAt t 3 = true := by
  simp only [typeIsValid, Bool.and_eq_true, and_assoc]

theorem props_critical (t : Word) : (props t).getLsbD 0 = critical t := by
  rw [props_getLsbD]; simp

theorem props_isPublic (t : Word) : (props t).getLsbD 1 = isPublic t := by
  rw [props_getLsbD]; simp

theorem props_reservedValid (t : Word) : (props t).getLsbD 2 = reservedValid t := by
  rw [props_getLsbD]; simp

theorem props_safeToCopy (t : Word) : (props t).getLsbD 3 = safeToCopy t := by
  rw [props_getLsbD]; simp

theorem props_typeIsValid (t : Word) : (props t).getLsbD 4 = typeIsValid t := by
  rw [props_getLsbD]; simp

theorem props_letterAt (t : Word) {i : Nat} (hi : i < 4) : (props t).getLsbD (8 + i) = letterAt t i := by
  rw [props_getLsbD]
  interval_cases i <;> simp

theorem props_reserved (t : Word) {j : Nat} (hj : (5 ≤ j ∧ j ≤ 7) ∨ 12 ≤ j) : (props t).getLsbD j = false := by
  have hflags : j ≠ 0 ∧ j ≠ 1 ∧ j ≠ 2 ∧ j ≠ 3 ∧ j ≠ 4 ∧ j ≠ 8 ∧ j ≠ 9 ∧ j ≠ 10 ∧ j ≠ 11 := by omega
  rw [props_getLsbD]
  simp [hflags]

/-- Settles O30: each bit of PROPS holds its property, and each property is read from its bits of the type. -/
theorem propsBitsDecodeTheType : Obligations.PropsBitsDecodeTheType := by
  unfold Obligations.PropsBitsDecodeTheType
  refine fun t => ⟨?critical, ?isPublic, ?reservedValid, ?safeToCopy, ?valid, fun i hi => ?letter,
    fun _ hj => props_reserved t hj⟩
  case critical =>
    rw [props_critical]
    exact not_propertyBit_iff t (i := 0) (by decide)
  case isPublic =>
    rw [props_isPublic]
    exact not_propertyBit_iff t (i := 1) (by decide)
  case reservedValid =>
    rw [props_reservedValid]
    exact not_propertyBit_iff t (i := 2) (by decide)
  case safeToCopy => rw [props_safeToCopy, safeToCopy, propertyBit_eq t (by decide)]
  case valid =>
    rw [props_typeIsValid, props_reservedValid, props_letterAt t (i := 0) (by decide),
      props_letterAt t (i := 1) (by decide), props_letterAt t (i := 2) (by decide),
      props_letterAt t (i := 3) (by decide)]
    exact typeIsValid_iff t
  case letter =>
    rw [props_letterAt t hi]
    rfl

/-! ### Equality of types (R113) -/

/-- Settles O24: a type's bytes determine its packed value. -/
theorem typesEqualWhenPackedValuesEqual : Obligations.TypesEqualWhenPackedValuesEqual := by
  unfold Obligations.TypesEqualWhenPackedValuesEqual
  exact fun _ _ => ⟨bytesBE32_injective, congrArg bytesBE32⟩

/-! ### CT_FROM_BYTES (R109) -/

/-- Settles O10: the command has no check to fail. -/
theorem ctFromBytesLoadsTypeIn : Obligations.CtFromBytesLoadsTypeIn := by
  unfold Obligations.CtFromBytesLoadsTypeIn
  exact ⟨rfl, execCtFromBytes_eq⟩

/-! ### CT_FROM_STRING (R110, R114) -/

/-- The window is exactly four letters: the condition under which R110 loads it. -/
def State.FourLetters (s : State) : Prop := s.window.length = 4 ∧ ∀ b ∈ s.window, isLetter b = true

theorem State.fourLetters_iff {s : State} : s.FourLetters ↔ s.windowSize = 4 ∧ s.window.all isLetter = true := by
  rw [State.FourLetters, State.window_length, List.all_eq_true]

theorem execCtFromString_of_outside {s : State} (h : s.windowInRange = false) :
    execCtFromString s = .next (s.failed 9) :=
  withWindow_of_outside h

theorem execCtFromString_of_not_fourLetters {s : State} (hr : s.windowInRange = true) (h : ¬ s.FourLetters) :
    execCtFromString s = .next (s.failed 1) := by
  rw [State.fourLetters_iff, not_and] at h
  rw [execCtFromString, withWindow_of_inRange hr]
  by_cases hn : s.windowSize = 4
  · rw [if_neg (not_not.mpr hn), if_neg (h hn)]
    rfl
  · rw [if_pos hn]
    rfl

theorem execCtFromString_of_fourLetters {s : State} (hr : s.windowInRange = true) (h : s.FourLetters) :
    execCtFromString s = .next ((s.loadType (be32 s.window)).settle .ok) := by
  obtain ⟨hn, hl⟩ := State.fourLetters_iff.mp h
  rw [execCtFromString, withWindow_of_inRange hr, if_neg (not_not.mpr hn), if_pos hl]
  rfl

/-- Settles O11: the window check, then the check of the four letters. -/
theorem ctFromStringLoadsFourLetters : Obligations.CtFromStringLoadsFourLetters := by
  unfold Obligations.CtFromStringLoadsFourLetters
  refine ⟨rfl, fun s => ⟨fun hout => ?outside, fun hin hbad => ?notLetters, fun hin hlen hall => ?letters⟩⟩
  case outside =>
    rw [State.windowOk_iff, Bool.not_eq_true] at hout
    exact execCtFromString_of_outside hout
  case notLetters => exact execCtFromString_of_not_fourLetters (State.windowOk_iff.mp hin) hbad
  case letters => exact execCtFromString_of_fourLetters (State.windowOk_iff.mp hin) ⟨hlen, hall⟩

/-- Settles O31: the type loaded is the packed window, and unpacking four packed bytes gives them back. -/
theorem fourLettersLoadAsThemselves : Obligations.FourLettersLoadAsThemselves := by
  unfold Obligations.FourLettersLoadAsThemselves
  intro s hin hlen hall
  exact ⟨(s.loadType (be32 s.window)).settle .ok,
    execCtFromString_of_fourLetters (State.windowOk_iff.mp hin) ⟨hlen, hall⟩, rfl, bytesBE32_be32 hlen⟩

/-! ### CT_FROM_CHUNK (R111) -/

theorem execCtFromChunk_of_none {s : State} (h : s.status.chunkValid = false) :
    execCtFromChunk s = .next (s.failed 7) :=
  withChunk_of_none h

theorem execCtFromChunk_of_chunk {s : State} (h : s.status.chunkValid = true) :
    execCtFromChunk s = .next ((s.loadType s.chType).settle .ok) :=
  withChunk_of_valid h

/-- Settles O12: the chunk check decides between the error commit and the chunk's type. -/
theorem ctFromChunkLoadsChunkType : Obligations.CtFromChunkLoadsChunkType := by
  unfold Obligations.CtFromChunkLoadsChunkType
  exact ⟨rfl, fun _ => ⟨execCtFromChunk_of_none, execCtFromChunk_of_chunk⟩⟩

end Sys2Proof.Machine

/-! PROOFS. The Chunk codec (R120 to R134): the frame at the start of the window, the commands that build, parse, emit
and check a chunk, the two round trips between them, and the UTF-8 check against R131's table. -/

namespace Sys2Proof.Machine

/-! ### The frame at the start of the window (R120, R122, R124) -/

/-- The packed type read is the four type bytes read. -/
theorem State.bytesBE32_frameType (s : State) : bytesBE32 s.frameType = s.windowBytes 4 4 :=
  bytesBE32_be32 (s.windowBytes_length 4 4)

/-- The CRC the verifier computes is the one a chunk of the type and payload read would have (R121). -/
theorem State.frameComputedCrc_eq (s : State) : s.frameComputedCrc = chunkCrc s.frameType s.framePayload := by
  rw [chunkCrc, State.bytesBE32_frameType]
  rfl

/-- The length field holds the number the parse takes as the payload's size. -/
theorem State.bytesBE32_frameLength (s : State) : bytesBE32 (BitVec.ofNat 32 s.frameLength) = s.windowBytes 0 4 := by
  rw [State.frameLength, BitVec.ofNat_toNat, BitVec.setWidth_eq, bytesBE32_be32 (s.windowBytes_length 0 4)]

/-- The four fields the parse reads, written as a frame, are the first `12 + L` window bytes. -/
theorem State.frameBytes_of_fields (s : State) :
    frameBytes (BitVec.ofNat 32 s.frameLength) s.frameType s.framePayload s.frameCrc =
      s.windowBytes 0 (12 + s.frameLength) := by
  have hcrc : bytesBE32 s.frameCrc = s.windowBytes (8 + s.frameLength) 4 :=
    bytesBE32_be32 (s.windowBytes_length _ 4)
  rw [frameBytes, s.bytesBE32_frameLength, s.bytesBE32_frameType, hcrc, State.framePayload,
    show 12 + s.frameLength = 4 + 4 + s.frameLength + 4 by omega, s.windowBytes_add, s.windowBytes_add,
    s.windowBytes_add, Nat.zero_add, Nat.zero_add, Nat.zero_add]

/-! ### CHUNK_PARSE (R124 to R126) -/

/-- CHUNK_PARSE on a window with room for the frame its length field announces: capacity and CRC are left to check. -/
theorem execChunkParse_of_wholeFrame {s : State} (hr : s.windowInRange = true)
    (hn : 12 + s.frameLength ≤ s.windowSize) :
    execChunkParse s =
      if s.dataBytes.val < s.frameLength then raise .capacityExceeded s
      else if s.frameComputedCrc ≠ s.frameCrc then raise .checksumMismatch s
      else complete s.parsed := by
  rw [execChunkParse, withWindow_of_inRange hr, if_neg (by omega), if_neg (by omega : ¬ s.windowSize < 12 + _)]
  rfl

theorem execChunkParse_of_outside {s : State} (h : s.windowInRange = false) : execChunkParse s = .next (s.failed 9) :=
  withWindow_of_outside h

/-- A window without room for an empty frame is truncated. -/
theorem execChunkParse_of_short {s : State} (hr : s.windowInRange = true) (hn : s.windowSize < 12) :
    execChunkParse s = .next (s.failed 3) := by
  rw [execChunkParse, withWindow_of_inRange hr, if_pos hn]
  rfl

/-- A length field over DATA_BYTES is reported before the window's size is compared with it. -/
theorem execChunkParse_of_overCapacity {s : State} (hr : s.windowInRange = true) (hn : 12 ≤ s.windowSize)
    (hl : s.dataBytes.val < s.frameLength) : execChunkParse s = .next (s.failed 9) := by
  rw [execChunkParse, withWindow_of_inRange hr, if_neg (by omega), if_pos hl]
  rfl

/-- A window without room for the frame its length field announces is truncated. -/
theorem execChunkParse_of_cutFrame {s : State} (hr : s.windowInRange = true) (h12 : 12 ≤ s.windowSize)
    (hl : s.frameLength ≤ s.dataBytes.val) (hn : s.windowSize < 12 + s.frameLength) :
    execChunkParse s = .next (s.failed 3) := by
  rw [execChunkParse, withWindow_of_inRange hr, if_neg (by omega), if_neg (by omega), if_pos hn]
  rfl

/-- Settles O14: the five checks in R124's order, then the chunk installed. -/
theorem chunkParseVerifiesAndInstalls : Obligations.ChunkParseVerifiesAndInstalls := by
  unfold Obligations.ChunkParseVerifiesAndInstalls
  refine ⟨rfl, fun s => ⟨fun hout => ?outside, fun hin => ?inside⟩⟩
  case outside =>
    rw [State.windowOk_iff, Bool.not_eq_true] at hout
    exact execChunkParse_of_outside hout
  case inside =>
    have hr : s.windowInRange = true := State.windowOk_iff.mp hin
    refine ⟨execChunkParse_of_short hr, execChunkParse_of_overCapacity hr, execChunkParse_of_cutFrame hr,
      execChunkParse_of_mismatch hr, fun hl hn hcrc => ?_⟩
    refine (execChunkParse_of_checks hr hl hn hcrc).trans ?_
    rw [State.parsed, State.installChunk, State.framePayload_length]
    rfl

/-- The state CHUNK_PARSE leaves on a frame of type `t` and payload `d`. -/
def State.parsedAs (s : State) (t : Word) (d : List Byte) : State :=
  ((s.installChunk t d (chunkCrc t d)).setConsumed (12 + d.length)).settle .ok

/-- CHUNK_PARSE on a window that begins with the frame of any type and payload, whatever follows it. -/
theorem execChunkParse_of_frame {s : State} {t : Word} {d more : List Byte} (hr : s.windowInRange = true)
    (hd : d.length ≤ s.dataBytes.val)
    (hw : s.window = frameBytes (BitVec.ofNat 32 d.length) t d (chunkCrc t d) ++ more) :
    execChunkParse s = .next (s.parsedAs t d) := by
  obtain ⟨hn, hl, htype, hpay, hcrc⟩ := State.frame_parts (bytesBE32_length _) hd hw
  have ht : s.frameType = t := by rw [State.frameType, htype, be32_bytesBE32]
  rw [be32_bytesBE32] at hcrc
  have hright : s.frameComputedCrc = s.frameCrc := by rw [State.frameComputedCrc_eq, ht, hpay, hcrc]
  rw [execChunkParse_of_checks hr (by omega) (by omega) hright, State.parsed, ht, hpay, hcrc, hl]
  rfl

/-- Settles O32: the parse of a frame installs the type and payload the frame was made of. -/
theorem frameOfAnyTypeParses : Obligations.FrameOfAnyTypeParses := by
  unfold Obligations.FrameOfAnyTypeParses
  intro s t d more hin hd hw
  exact ⟨s.parsedAs t d, execChunkParse_of_frame (State.windowOk_iff.mp hin) hd hw, rfl, rfl, rfl,
    s.toNat_ofNat_of_le (by omega), Memory.stored_putBytes s.data 0 d, rfl, s.toNat_ofNat_of_le (by omega)⟩

/-- Settles O36: four bytes other than the right ones pack to another CRC, and only the last check fails. -/
theorem corruptCrcFieldFails : Obligations.CorruptCrcFieldFails := by
  unfold Obligations.CorruptCrcFieldFails
  intro s t d q more hin hd hq hne hw
  obtain ⟨hn, hl, htype, hpay, hcrc⟩ := State.frame_parts hq hd hw
  refine execChunkParse_of_mismatch (State.windowOk_iff.mp hin) (by omega) (by omega) fun heq => hne ?_
  rw [State.frameComputedCrc, htype, hpay, hcrc] at heq
  rw [heq, bytesBE32_be32 hq]

/-! ### Trailing bytes (R125) -/

/-- The state with another IN buffer, and the window ending elsewhere. -/
def State.withInput (s : State) (e : Word) (m : Memory) : State := { s with inLen := e, input := m }

theorem State.withInput_dataBytes (s : State) (e : Word) (m : Memory) : (s.withInput e m).dataBytes = s.dataBytes := rfl

/-- Window bytes depend on the IN cells they are read from, and not on where the window ends. -/
theorem State.windowBytes_withInput {s : State} {m : Memory} (e : Word) {k i n : Nat}
    (h : ∀ j, j < k → m.cell (s.inOff.toNat + j) = s.input.cell (s.inOff.toNat + j)) (hk : i + n ≤ k) :
    (s.withInput e m).windowBytes i n = s.windowBytes i n := by
  refine Memory.readBytes_congr fun j hj => ?_
  have hcell := h (i + j) (by omega)
  rw [← Nat.add_assoc] at hcell
  exact congrArg (Option.getD · _) hcell

section Agree

variable {s : State} {e : Word} {m : Memory}
  (h : ∀ j, j < 12 + s.frameLength → m.cell (s.inOff.toNat + j) = s.input.cell (s.inOff.toNat + j))

include h

theorem State.frameLength_withInput : (s.withInput e m).frameLength = s.frameLength := by
  rw [State.frameLength, State.windowBytes_withInput e h (by omega)]
  rfl

theorem State.frameType_withInput : (s.withInput e m).frameType = s.frameType := by
  rw [State.frameType, State.windowBytes_withInput e h (by omega)]
  rfl

theorem State.framePayload_withInput : (s.withInput e m).framePayload = s.framePayload := by
  rw [State.framePayload, State.frameLength_withInput h, State.windowBytes_withInput e h (by omega)]
  rfl

theorem State.frameCrc_withInput : (s.withInput e m).frameCrc = s.frameCrc := by
  rw [State.frameCrc, State.frameLength_withInput h, State.windowBytes_withInput e h (by omega)]
  rfl

theorem State.frameComputedCrc_withInput : (s.withInput e m).frameComputedCrc = s.frameComputedCrc := by
  rw [State.frameComputedCrc_eq, State.frameType_withInput h, State.framePayload_withInput h,
    State.frameComputedCrc_eq]

theorem State.parsed_withInput : (s.withInput e m).parsed = s.parsed.withInput e m := by
  rw [State.parsed, State.frameType_withInput h, State.framePayload_withInput h, State.frameCrc_withInput h,
    State.frameLength_withInput h, State.parsed]
  rfl

/-- CHUNK_PARSE answers alike on two windows that agree on the frame and have room for it. -/
theorem execChunkParse_withInput {t : State} (hr : s.windowInRange = true)
    (hr' : (s.withInput e m).windowInRange = true) (hn : 12 + s.frameLength ≤ s.windowSize)
    (hn' : 12 + s.frameLength ≤ (s.withInput e m).windowSize) (ht : execChunkParse s = .next t) :
    execChunkParse (s.withInput e m) = .next (t.withInput e m) := by
  have hl := State.frameLength_withInput (e := e) h
  rw [execChunkParse_of_wholeFrame hr hn] at ht
  rw [← hl] at hn'
  rw [execChunkParse_of_wholeFrame hr' hn', hl, State.frameComputedCrc_withInput h,
    State.frameCrc_withInput h, State.parsed_withInput h, State.withInput_dataBytes]
  by_cases hcap : s.dataBytes.val < s.frameLength
  · rw [if_pos hcap] at ht ⊢
    cases ht; rfl
  · rw [if_neg hcap] at ht ⊢
    by_cases hcrc : s.frameComputedCrc ≠ s.frameCrc
    · rw [if_pos hcrc] at ht ⊢
      cases ht; rfl
    · rw [if_neg hcrc] at ht ⊢
      cases ht; rfl

end Agree

/-- A successful CHUNK_PARSE, by the chunk it installed and the checks it passed. -/
theorem execChunkParse_ok {s t : State} (h : execChunkParse s = .next t) (herr : t.status.err = 0) :
    s.frameLength ≤ s.dataBytes.val ∧ 12 + s.frameLength ≤ s.windowSize ∧ t = s.parsed.settle .ok := by
  obtain ⟨u, hu, rfl⟩ := exec_ok (i := .chunkParse) h herr
  cases hu with
  | parse _ hl hn _ => exact ⟨hl, hn, rfl⟩

/-- Settles O33: every field the parse reads lies in the bytes on which the two windows agree. -/
theorem parseIgnoresTrailingBytes : Obligations.ParseIgnoresTrailingBytes := by
  unfold Obligations.ParseIgnoresTrailingBytes
  intro s e m t s' hin hin' hn hn' hagree ht
  refine ⟨execChunkParse_withInput hagree (State.windowOk_iff.mp hin) (State.windowOk_iff.mp hin') hn hn' ht,
    fun herr => ?_⟩
  obtain ⟨hl, _, rfl⟩ := execChunkParse_ok ht herr
  exact s.toNat_ofNat_of_le (Nat.add_le_add_left hl 12)

/-! ### CHUNK_NEW (R123) -/

theorem execChunkNew_of_outside {s : State} (h : s.windowInRange = false) : execChunkNew s = .next (s.failed 9) :=
  withWindow_of_outside h

theorem execChunkNew_of_noType {s : State} (hr : s.windowInRange = true) (hv : s.status.typeValid = false) :
    execChunkNew s = .next (s.failed 7) := by
  rw [execChunkNew, withWindow_of_inRange hr, hv]
  rfl

theorem execChunkNew_of_overCapacity {s : State} (hr : s.windowInRange = true) (hv : s.status.typeValid = true)
    (hn : s.dataBytes.val < s.windowSize) : execChunkNew s = .next (s.failed 9) := by
  rw [execChunkNew, withWindow_of_inRange hr, hv, if_pos hn]
  rfl

theorem execChunkNew_of_checks {s : State} (hr : s.windowInRange = true) (hv : s.status.typeValid = true)
    (hn : s.windowSize ≤ s.dataBytes.val) :
    execChunkNew s = .next ((s.installChunk s.ctype s.window (chunkCrc s.ctype s.window)).settle .ok) := by
  rw [execChunkNew, withWindow_of_inRange hr, hv, if_neg (by omega : ¬ s.dataBytes.val < s.windowSize)]
  rfl

/-- Settles O13: the three checks in R123's order, then the chunk of the loaded type and the window. -/
theorem chunkNewBuildsChunk : Obligations.ChunkNewBuildsChunk := by
  unfold Obligations.ChunkNewBuildsChunk
  refine ⟨rfl, fun s => ⟨fun hout => ?outside, fun hin => ?noType, fun hin => ?overCapacity,
    fun hin hv hn => ?built⟩⟩
  case outside =>
    rw [State.windowOk_iff, Bool.not_eq_true] at hout
    exact execChunkNew_of_outside hout
  case noType => exact execChunkNew_of_noType (State.windowOk_iff.mp hin)
  case overCapacity => exact execChunkNew_of_overCapacity (State.windowOk_iff.mp hin)
  case built =>
    refine (execChunkNew_of_checks (State.windowOk_iff.mp hin) hv hn).trans ?_
    rw [State.installChunk, State.window_length]
    rfl

/-! ### CHUNK_SERIALIZE and CHUNK_UTF8 (R127, R132) -/

/-- Settles O15: the chunk check decides between the error commit and the frame of the chunk. -/
theorem chunkSerializeEmitsFrame : Obligations.ChunkSerializeEmitsFrame := by
  unfold Obligations.ChunkSerializeEmitsFrame
  exact ⟨rfl, fun s => ⟨fun hnone => withChunk_of_none hnone,
    fun hv hl => execChunkSerialize_of_chunk hv (State.payloadInData_iff.mpr hl)⟩⟩

/-- CHUNK_UTF8 on a chunk whose payload lies inside DATA. -/
theorem execChunkUtf8_of_chunk {s : State} (hv : s.status.chunkValid = true) (hl : s.length.toNat ≤ s.dataBytes.val) :
    execChunkUtf8 s = if utf8Valid s.payload then complete s else raise .invalidUtf8 s := by
  rw [execChunkUtf8, withChunk_of_valid hv, withPayload_of_inData (State.payloadInData_iff.mpr hl)]

/-- Settles O16: the chunk check, then the UTF-8 check of the payload. -/
theorem chunkUtf8WritesOnlyErr : Obligations.ChunkUtf8WritesOnlyErr := by
  unfold Obligations.ChunkUtf8WritesOnlyErr
  refine ⟨rfl, fun s => ⟨fun hnone => withChunk_of_none hnone, fun hv hl hu => ?invalid,
    fun hv hl hu => ?valid⟩⟩
  case invalid => exact (execChunkUtf8_of_chunk hv hl).trans (if_neg (ne_true_of_eq_false hu))
  case valid => exact (execChunkUtf8_of_chunk hv hl).trans (if_pos hu)

/-! ### Equality of chunks (R134) -/

/-- Settles O25: the length is the payload's, and the CRC is computed from type and payload. -/
theorem typeAndPayloadDetermineChunk : Obligations.TypeAndPayloadDetermineChunk := by
  unfold Obligations.TypeAndPayloadDetermineChunk
  intro s t hs ht hsv htv
  obtain ⟨_, _, hscrc⟩ := hs.chunk hsv
  obtain ⟨_, _, htcrc⟩ := ht.chunk htv
  refine ⟨fun ⟨htype, hpay⟩ => ⟨htype, ?_, hpay, ?_⟩, fun ⟨htype, _, hpay, _⟩ => ⟨htype, hpay⟩⟩
  · apply BitVec.eq_of_toNat_eq
    rw [← s.payload_length, ← t.payload_length, hpay]
  · rw [hscrc, htcrc, htype, hpay]

/-! ### The round trips (R128, R129) -/

/-- The window is `bs` when it has its size and IN holds its bytes. -/
theorem State.window_eq_of_cells {s : State} {bs : List Byte} (hn : s.windowSize = bs.length)
    (hcell : ∀ i, i < bs.length → s.input.cell (s.inOff.toNat + i) = bs[i]?) : s.window = bs := by
  have hstored : s.input.stored s.inOff.toNat bs.length = some bs := Memory.stored_eq_some_iff.mpr ⟨rfl, hcell⟩
  rw [State.window, hn]
  exact Memory.readBytes_of_stored hstored s.draws

/-- The state with IN replaced and the window `off` to `fin` of it. -/
def State.withWindowAt (s : State) (m : Memory) (off fin : Word) : State :=
  { s with input := m, inOff := off, inLen := fin }

/-- The frame CHUNK_SERIALIZE emits. -/
def State.frame (s : State) : List Byte := frameBytes s.length s.chType s.payload s.crc

@[simp] theorem State.frame_length (s : State) : s.frame.length = 12 + s.length.toNat := by
  rw [State.frame, frameBytes_length, State.payload_length]

/-- The state CHUNK_SERIALIZE leaves. -/
def State.serialized (s : State) : State := (s.emit s.frame (12 + s.length.toNat)).settle .ok

/-- OUT_LEN is the number of bytes of the frame (R40). -/
theorem State.serialized_outLen_toNat {s : State} (hp : s.payloadInData = true) :
    s.serialized.outLen.toNat = s.frame.length :=
  (s.toNat_ofNat_frame hp).trans s.frame_length.symm

/-- OUT holds the frame emitted (R28). -/
theorem State.serialized_out_stored (s : State) : s.serialized.out.stored 0 s.frame.length = some s.frame :=
  Memory.stored_putBytes s.out 0 s.frame

/-- The frame of a sound chunk is the frame of its type and payload (R43). -/
theorem State.Inv.frame_eq {s : State} (h : s.Inv) (hv : s.status.chunkValid = true) :
    s.frame = frameBytes (BitVec.ofNat 32 s.payload.length) s.chType s.payload (chunkCrc s.chType s.payload) := by
  obtain ⟨_, _, hcrc⟩ := h.chunk hv
  rw [State.payload_length, BitVec.ofNat_toNat, BitVec.setWidth_eq, State.frame, hcrc, chunkCrc]

/-- Installing the payload of a chunk leaves its DATA bytes as they were. -/
theorem State.Inv.cell_putBytes_payload {s : State} (h : s.Inv) (hv : s.status.chunkValid = true) (m : Memory)
    {i : Nat} (hi : i < s.length.toNat) : (m.putBytes 0 s.payload).cell i = s.data.cell i := by
  obtain ⟨_, hstored, _⟩ := h.chunk hv
  obtain ⟨hlen, hget⟩ := Memory.stored_eq_some_iff.mp hstored
  have hput := Memory.cell_putBytes_of_lt m (a := 0) s.payload (hlen.symm ▸ hi)
  rw [← hget i hi, Nat.zero_add] at hput
  exact hput

/-- Settles O34: the copied bytes are the frame of the chunk's type and payload, and that frame parses to them. -/
theorem serializeThenParseIsIdentity : Obligations.SerializeThenParseIsIdentity := by
  unfold Obligations.SerializeThenParseIsIdentity
  intro s hs hv
  obtain ⟨hp, _, hcrc⟩ := hs.chunk hv
  refine ⟨s.serialized, execChunkSerialize_of_chunk hv hp, rfl, fun m off fin hfin hsize hcopy => ?_⟩
  obtain ⟨_, hout⟩ := Memory.stored_eq_some_iff.mp s.serialized_out_stored
  rw [State.serialized_outLen_toNat hp] at hsize hcopy
  have hr : (s.serialized.withWindowAt m off fin).windowInRange = true :=
    State.windowInRange_iff.mpr ⟨hfin, show off.toNat ≤ fin.toNat by omega⟩
  have hwindow : (s.serialized.withWindowAt m off fin).window = s.frame := by
    refine State.window_eq_of_cells (show fin.toNat - off.toNat = _ by omega) fun i hi => ?_
    rw [← hout i hi, Nat.zero_add]
    exact hcopy i hi
  have hparse := execChunkParse_of_frame (t := s.chType) (d := s.payload) (more := []) hr
    (s.payload_length.trans_le (State.payloadInData_iff.mp hp)) (by rw [hwindow, hs.frame_eq hv, List.append_nil])
  refine ⟨_, hparse, rfl, rfl, ?length, hcrc.symm, fun i hi => hs.cell_putBytes_payload hv _ hi, ?consumed⟩
  case length => exact (congrArg (BitVec.ofNat 32) s.payload_length).trans (by simp)
  case consumed => exact congrArg (fun n => BitVec.ofNat 32 (12 + n)) s.payload_length

section Parsed

variable {s : State} (hl : s.frameLength ≤ s.dataBytes.val)

include hl

/-- The chunk a parse installs has the length its frame gives. -/
theorem State.parsed_length_toNat : s.parsed.length.toNat = s.frameLength :=
  (s.installChunk_length_toNat s.frameType s.frameCrc (s.framePayload_length.trans_le hl)).trans s.framePayload_length

/-- The payload of the chunk a parse installs is the one it read. -/
theorem State.parsed_payload (e : ErrorCode) : (s.parsed.settle e).payload = s.framePayload := by
  have hstored := Memory.stored_putBytes s.data 0 s.framePayload
  rw [s.framePayload_length, ← State.parsed_length_toNat hl] at hstored
  exact Memory.readBytes_of_stored hstored _

/-- The frame of the chunk a parse installs is the bytes the parse read. -/
theorem State.parsed_frame (e : ErrorCode) : (s.parsed.settle e).frame = s.windowBytes 0 (12 + s.frameLength) := by
  have hlength : (s.parsed.settle e).length = BitVec.ofNat 32 s.frameLength :=
    congrArg (BitVec.ofNat 32) s.framePayload_length
  rw [State.frame, hlength, State.parsed_payload hl]
  exact s.frameBytes_of_fields

end Parsed

/-- Settles O35: the frame of the chunk installed is the bytes read, and CONSUMED is their number. -/
theorem parseThenSerializeIsIdentity : Obligations.ParseThenSerializeIsIdentity := by
  unfold Obligations.ParseThenSerializeIsIdentity
  intro s t ht herr
  obtain ⟨hl, hn, rfl⟩ := execChunkParse_ok ht herr
  have hp : (s.parsed.settle .ok).payloadInData = true :=
    State.payloadInData_iff.mpr ((State.parsed_length_toNat hl).trans_le hl)
  have hconsumed : (s.parsed.settle .ok).consumed.toNat = 12 + s.frameLength :=
    s.toNat_ofNat_of_le (Nat.add_le_add_left hl 12)
  refine ⟨(s.parsed.settle .ok).serialized, execChunkSerialize_of_chunk rfl hp, rfl, ?_⟩
  rw [State.serialized_outLen_toNat hp, State.serialized_out_stored, State.parsed_frame hl, hconsumed,
    s.windowBytes_eq ((Nat.zero_add _).trans_le hn), List.drop_zero]

/-! ### The UTF-8 check (R131) -/

/-- The bytes that may follow: as many as the ranges due, each in its range. -/
def FillDue (due : List (Byte × Byte)) (s : List Byte) : Prop := List.Forall₂ (fun r b => inRange r b = true) due s

/-- A concatenation of zero or more sequences of R131's table. -/
def Utf8Text (s : List Byte) : Prop :=
  ∃ parts : List (List Byte), s = parts.flatten ∧ ∀ p ∈ parts, utf8Sequence p

theorem inRange_iff {r : Byte × Byte} {b : Byte} : inRange r b = true ↔ byteBetween b r.1.toNat r.2.toNat := by
  simp [inRange, byteBetween, BitVec.le_def]

/-- The first-byte ranges rise from row to row, so no byte is in two of them. -/
theorem utf8Table_rising : utf8Table.Pairwise fun r r' => r.1.2 < r'.1.1 := by decide

/-- A sequence may begin with a byte when a row's range holds it, and that row says what must follow. -/
theorem utf8Follow_eq_some_iff {b : Byte} {due : List (Byte × Byte)} :
    utf8Follow b = some due ↔ ∃ row ∈ utf8Table, inRange row.1 b = true ∧ row.2 = due := by
  rw [utf8Follow, Option.map_eq_some_iff]
  constructor
  · rintro ⟨row, hfind, hdue⟩
    exact ⟨row, List.mem_of_find?_eq_some hfind,
      List.find?_some (p := fun row : (Byte × Byte) × List (Byte × Byte) => inRange row.1 b) hfind, hdue⟩
  · rintro ⟨row, hmem, hb, hdue⟩
    obtain ⟨before, behind, hsplit⟩ := List.append_of_mem hmem
    refine ⟨row, List.find?_eq_some_iff_append.mpr ⟨hb, before, behind, hsplit, fun row' hrow' => ?_⟩, hdue⟩
    have hrising := utf8Table_rising
    rw [hsplit, List.pairwise_append] at hrising
    have hlt : row'.1.2 < row.1.1 := hrising.2.2 row' hrow' row List.mem_cons_self
    rw [inRange_iff] at hb
    rw [Bool.not_eq_true', ← Bool.not_eq_true, inRange_iff]
    exact fun h => absurd (h.2.trans_lt hlt) (not_lt.mpr hb.1)

/-- The statement's list of well-formed sequences is the check's table. -/
theorem utf8Sequence_cons_iff_row {b : Byte} {s : List Byte} :
    utf8Sequence (b :: s) ↔ ∃ row ∈ utf8Table, inRange row.1 b = true ∧ FillDue row.2 s := by
  match s with
  | [] => simp [utf8Sequence, utf8Table, continuation, FillDue, inRange_iff]
  | [_] => simp [utf8Sequence, utf8Table, continuation, FillDue, inRange_iff]
  | [_, _] => simp [utf8Sequence, utf8Table, continuation, FillDue, inRange_iff]
  | [_, _, _] => simp [utf8Sequence, utf8Table, continuation, FillDue, inRange_iff]
  | _ :: _ :: _ :: _ :: _ => simp [utf8Sequence, utf8Table, continuation, FillDue]

theorem utf8Sequence_cons_iff {b : Byte} {s : List Byte} :
    utf8Sequence (b :: s) ↔ ∃ due, utf8Follow b = some due ∧ FillDue due s := by
  simp only [utf8Sequence_cons_iff_row, utf8Follow_eq_some_iff]
  constructor
  · rintro ⟨row, hmem, hb, hs⟩
    exact ⟨row.2, ⟨row, hmem, hb, rfl⟩, hs⟩
  · rintro ⟨_, ⟨row, hmem, hb, rfl⟩, hs⟩
    exact ⟨row, hmem, hb, hs⟩

theorem Utf8Text.nil : Utf8Text [] := ⟨[], rfl, by simp⟩

/-- A text that is not empty begins with a sequence and goes on with a text. -/
theorem utf8Text_cons_iff {b : Byte} {s : List Byte} :
    Utf8Text (b :: s) ↔ ∃ p rest, s = p ++ rest ∧ utf8Sequence (b :: p) ∧ Utf8Text rest := by
  constructor
  · rintro ⟨parts, hs, hparts⟩
    match parts with
    | [] => cases hs
    | [] :: _ => exact (hparts [] List.mem_cons_self).elim
    | (a :: p) :: parts =>
      obtain ⟨rfl, rfl⟩ := List.cons_eq_cons.mp hs
      exact ⟨p, parts.flatten, rfl, hparts _ List.mem_cons_self,
        parts, rfl, fun q hq => hparts q (List.mem_cons_of_mem _ hq)⟩
  · rintro ⟨p, _, rfl, hp, parts, rfl, hparts⟩
    exact ⟨(b :: p) :: parts, rfl, List.forall_mem_cons.mpr ⟨hp, hparts⟩⟩

/-- What completes a text in which the ranges `due` are still to be filled: those bytes, then a text. -/
def Utf8Rest (due : List (Byte × Byte)) (s : List Byte) : Prop :=
  ∃ p rest, s = p ++ rest ∧ FillDue due p ∧ Utf8Text rest

@[simp] theorem utf8Rest_nil {s : List Byte} : Utf8Rest [] s ↔ Utf8Text s := by
  simp [Utf8Rest, FillDue]

@[simp] theorem not_utf8Rest_cons_nil {r : Byte × Byte} {due : List (Byte × Byte)} : ¬ Utf8Rest (r :: due) [] := by
  simp [Utf8Rest, FillDue]

@[simp] theorem utf8Rest_cons_cons {r : Byte × Byte} {due : List (Byte × Byte)} {b : Byte} {s : List Byte} :
    Utf8Rest (r :: due) (b :: s) ↔ inRange r b = true ∧ Utf8Rest due s := by
  constructor
  · rintro ⟨p, rest, hs, hp, hrest⟩
    cases hp with
    | cons hb hp =>
      obtain ⟨rfl, rfl⟩ := List.cons_eq_cons.mp hs
      exact ⟨hb, _, rest, rfl, hp, hrest⟩
  · rintro ⟨hb, p, rest, rfl, hp, hrest⟩
    exact ⟨b :: p, rest, rfl, .cons hb hp, hrest⟩

/-- A text that is not empty: a first byte, and what must follow it. -/
theorem utf8Text_cons_iff_follow {b : Byte} {s : List Byte} :
    Utf8Text (b :: s) ↔ ∃ due, utf8Follow b = some due ∧ Utf8Rest due s := by
  simp only [utf8Text_cons_iff, utf8Sequence_cons_iff]
  constructor
  · rintro ⟨p, rest, hs, ⟨due, hdue, hp⟩, hrest⟩
    exact ⟨due, hdue, p, rest, hs, hp, hrest⟩
  · rintro ⟨due, hdue, p, rest, hs, hp, hrest⟩
    exact ⟨p, rest, hs, ⟨due, hdue, hp⟩, hrest⟩

/-- The check holds of what completes a text, byte by byte. -/
theorem utf8From_iff (due : List (Byte × Byte)) (s : List Byte) : utf8From due s = true ↔ Utf8Rest due s := by
  induction due, s using utf8From.induct with
  | case1 => simp [utf8From, Utf8Text.nil]
  | case2 => simp [utf8From]
  | case3 r due b rest ih => rw [utf8From, Bool.and_eq_true, ih, utf8Rest_cons_cons]
  | case4 b rest due hdue ih => simp [utf8From, utf8Text_cons_iff_follow, hdue, ih]
  | case5 b rest hnone => simp [utf8From, utf8Text_cons_iff_follow, hnone]

/-- Settles O37: with nothing due, what completes a text is a text. -/
theorem utf8ValidIsTheTable : Obligations.Utf8ValidIsTheTable := by
  unfold Obligations.Utf8ValidIsTheTable
  exact fun s => (utf8From_iff [] s).trans utf8Rest_nil

end Sys2Proof.Machine

/-! PROOFS. The host's transactions (R150 to R163): a step is the next one, what each read returns and each write
stores, and that only commands change the chunk and the loaded type. -/

namespace Sys2Proof.Machine

/-! ### The step (R61, R150, R152) -/

/-- Settles O6: taking a transaction off `pending` is what the statement calls the state after taking it. -/
theorem stepPerformsTheNextTransaction : Obligations.StepPerformsTheNextTransaction := by
  unfold Obligations.StepPerformsTheNextTransaction
  exact fun _ _ _ hpending => step_of_pending hpending

theorem runCommand_of_decode {w : Word} {i : Instr} (h : decode w = .ok i) (s : State) :
    runCommand w s = exec i s := by
  simp [runCommand, h]

/-- Settles O5: the next transaction is a CMD write, and its word decodes to the command. -/
theorem stepRunsTheCommandWritten : Obligations.StepRunsTheCommandWritten := by
  unfold Obligations.StepRunsTheCommandWritten
  intro s rest w i hpending hdecode
  calc step s
    _ = transact (regWrite 0x00 w) (s.afterTaking rest) := step_of_pending hpending
    _ = runCommand w (s.afterTaking rest) := transact_cmdWrite w _
    _ = exec i (s.afterTaking rest) := runCommand_of_decode hdecode _

/-! ### Register writes (R153, R154) -/

/-- A write at a register's offset does what that register's write does. -/
theorem transact_regWrite (r : Reg) (v : Word) (s : State) : transact (regWrite r.offset v) s = writeReg r v s :=
  withRegister_offset r fun r => writeReg r v s

/-- Settles O40: each of the three registers stores the value. -/
theorem windowAndTypeWritesStore : Obligations.WindowAndTypeWritesStore := by
  unfold Obligations.WindowAndTypeWritesStore
  exact fun s v => ⟨transact_regWrite .inLen v s, transact_regWrite .inOff v s, transact_regWrite .typeIn v s⟩

/-- The nine registers the host cannot write, in the order R154 lists them. -/
def readOnlyRegs : List Reg := [.status, .ctype, .props, .chType, .length, .crc, .consumed, .outLen, .crcOut]

theorem writeReg_readOnly {r : Reg} (hr : r ∈ readOnlyRegs) (v : Word) (s : State) : writeReg r v s = .next s := by
  cases r with
  | cmd | inLen | inOff | typeIn => simp [readOnlyRegs] at hr
  | status | ctype | props | chType | length | crc | consumed | outLen | crcOut => rfl

/-- Settles O41: the nine offsets are those of the read-only registers. -/
theorem readOnlyRegisterWritesDoNothing : Obligations.ReadOnlyRegisterWritesDoNothing := by
  unfold Obligations.ReadOnlyRegisterWritesDoNothing
  intro s v off hoff
  obtain ⟨r, hr, rfl⟩ : ∃ r ∈ readOnlyRegs, r.offset = off := List.mem_map.mp hoff
  exact (transact_regWrite r v s).trans (writeReg_readOnly hr v s)

/-! ### Register reads (R155, R156) -/

theorem State.answers_regRead (s : State) (r : Reg) : s.Answers (regRead r.offset) (.word (s.readReg r)) :=
  withRegister_offset r fun r => .next (s.answer (.word (s.readReg r)))

theorem presentIf_getD (flag : Bool) (v d : Word) : (presentIf flag v).getD d = if flag then v else d := by
  cases flag <;> rfl

/-- A register whose value exists only while its presence flag is set reads as a free value while it is not. -/
theorem State.answers_regRead_presentIf {s : State} {r : Reg} {flag : Bool} {v : Word}
    (h : s.regValue r = presentIf flag v) :
    s.Answers (regRead r.offset) (.word (if flag then v else Config.freeWord s.draws r.offset)) := by
  have hread := s.answers_regRead r
  rwa [State.readReg, h, presentIf_getD] at hread

/-- Settles O38: CMD has no value, four registers always have one, and the other eight while their flag is set. -/
theorem registerReadsReturn : Obligations.RegisterReadsReturn := by
  unfold Obligations.RegisterReadsReturn
  intro s
  refine ⟨s.answers_regRead .cmd, s.answers_regRead .status, s.answers_regRead .inLen, s.answers_regRead .inOff,
    s.answers_regRead .typeIn, ?ctype, ?props, ?chType, ?length, ?crc, ?consumed, ?outLen, ?crcOut⟩
  case ctype => exact State.answers_regRead_presentIf (r := .ctype) rfl
  case props => exact State.answers_regRead_presentIf (r := .props) rfl
  case chType => exact State.answers_regRead_presentIf (r := .chType) rfl
  case length => exact State.answers_regRead_presentIf (r := .length) rfl
  case crc => exact State.answers_regRead_presentIf (r := .crc) rfl
  case consumed => exact State.answers_regRead_presentIf (r := .consumed) rfl
  case outLen => exact State.answers_regRead_presentIf (r := .outLen) rfl
  case crcOut => exact State.answers_regRead_presentIf (r := .crcOut) rfl

/-! ### IN writes (R157) -/

/-- A byte travels in the low 8 bits of the value written (log entry 14) and is stored as it was. -/
theorem setWidth_byte_roundtrip (b : Byte) : (b.setWidth 32).setWidth 8 = b := by simp

theorem transact_inWrite {s : State} {i : Nat} (h : i < s.inBytes) (b : Byte) :
    transact (inWrite i b) s = .next (s.writeInput i b) := by
  have hwrite : transact (inWrite i b) s = .next (s.writeInput i ((b.setWidth 32).setWidth 8)) :=
    withBufferByte_of_lt h
  rwa [setWidth_byte_roundtrip] at hwrite

/-- An IN write that answers has stored its byte. -/
theorem eq_writeInput_of_transact {s t : State} {i : Nat} {b : Byte} (h : transact (inWrite i b) s = .next t) :
    t = s.writeInput i b := by
  cases transact_cases h with
  | writeByte => rw [setWidth_byte_roundtrip]

/-- Settles O42: the write is one `put`, which stores its byte and leaves every other. -/
theorem inWriteStoresOneByte : Obligations.InWriteStoresOneByte := by
  unfold Obligations.InWriteStoresOneByte
  intro s i b hi
  exact ⟨s.writeInput i b, transact_inWrite hi b, rfl, Memory.cell_put_self s.input i b,
    fun _ ha => Memory.cell_put_of_ne s.input b ha⟩

/-! ### Buffer reads (R158, R159, R160) -/

theorem State.answers_byteRead {s : State} {sp : Space} {i : Nat} (hs : sp ≠ .reg) (hi : i < s.capacity sp) :
    s.Answers (byteRead sp i) (.byte (s.readBuffer sp i)) := by
  cases sp with
  | reg => exact absurd rfl hs
  | input | data | out => exact withBufferByte_of_lt hi

/-- A byte that is defined for the host and stored is what its read returns. -/
theorem State.readBuffer_of_cell {s : State} {sp : Space} {i : Nat} {b : Byte} (hdef : s.byteDefined sp i = true)
    (hb : (s.buffer sp).cell i = some b) : s.readBuffer sp i = b :=
  (if_pos hdef).trans (Memory.readByte_of_cell hb s.draws)

/-- Outside the current chunk or serialization a read does not return what is stored there. -/
theorem State.readBuffer_of_undefined {s : State} {sp : Space} {i : Nat} (hdef : ¬ s.byteDefined sp i = true) :
    s.readBuffer sp i = Config.freeByte s.draws i :=
  if_neg hdef

/-- An IN byte not written since reset reads as a free one. -/
theorem State.readBuffer_input_of_unwritten {s : State} {i : Nat} (h : s.input.cell i = none) :
    s.readBuffer .input i = Config.freeByte s.draws i :=
  Memory.readByte_of_unwritten h s.draws

theorem State.window_getElem? {s : State} {i : Nat} (hi : i < s.windowSize) :
    s.window[i]? = some (s.input.readByte s.draws (s.inOff.toNat + i)) :=
  (s.windowBytes_getElem? 0 s.windowSize i).trans (if_pos hi)

/-- Settles O43: the host and the commands read the same stored bytes, RESET stores none, and an IN write its own. -/
theorem inReadsGiveLastByteWritten : Obligations.InReadsGiveLastByteWritten := by
  unfold Obligations.InReadsGiveLastByteWritten
  refine ⟨fun s i hi => ?host, fun s i hi => ?window, Memory.cell_nil, fun s t h i => ?reset, fun s t i b h => ?write⟩
  case host =>
    have hread : s.Answers (byteRead .input i) (.byte (s.readBuffer .input i)) :=
      State.answers_byteRead Space.noConfusion hi
    refine ⟨fun b hb => ?_, fun hnone => ?_⟩
    · rwa [State.readBuffer_of_cell (sp := .input) rfl hb] at hread
    · rwa [State.readBuffer_input_of_unwritten hnone] at hread
  case window =>
    rw [State.window_getElem? hi]
    exact ⟨fun b hb => congrArg some (Memory.readByte_of_cell hb s.draws),
      fun hnone => congrArg some (Memory.readByte_of_unwritten hnone s.draws)⟩
  case reset =>
    obtain rfl : s.restart = t := Host.Outcome.next.inj h
    exact Memory.cell_nil i
  case write =>
    rw [eq_writeInput_of_transact h]
    exact Memory.cell_put_self s.input i b

/-- Each of the stored bytes is in its cell. -/
theorem Memory.exists_cell_of_stored {m : Memory} {n i : Nat} {bs : List Byte} (h : m.stored 0 n = some bs)
    (hi : i < n) : ∃ b, m.cell i = some b := by
  obtain ⟨hlen, hget⟩ := Memory.stored_eq_some_iff.mp h
  have hcell := hget i hi
  rw [Nat.zero_add, List.getElem?_eq_getElem (by omega)] at hcell
  exact ⟨_, hcell⟩

/-- The bytes the host may read of DATA are those of the current chunk (R159). -/
theorem State.byteDefined_data_iff {s : State} {i : Nat} :
    s.byteDefined .data i = true ↔ s.status.chunkValid = true ∧ i < s.length.toNat := by
  simp [State.byteDefined]

/-- The bytes the host may read of OUT are those of the current serialization (R160). -/
theorem State.byteDefined_out_iff {s : State} {i : Nat} :
    s.byteDefined .out i = true ↔ s.status.outValid = true ∧ i < s.outLen.toNat := by
  simp [State.byteDefined]

/-- Under the invariant a byte of DATA or OUT that is defined for the host has been written (R28, R37). -/
theorem State.Inv.exists_cell_of_byteDefined {s : State} (h : s.Inv) {sp : Space} (hsp : sp ≠ .input) {i : Nat}
    (hdef : s.byteDefined sp i = true) : ∃ b, (s.buffer sp).cell i = some b := by
  cases sp with
  | reg => cases hdef
  | input => exact absurd rfl hsp
  | data =>
    obtain ⟨hvalid, hi⟩ := State.byteDefined_data_iff.mp hdef
    obtain ⟨_, hstored, _⟩ := h.chunk hvalid
    exact Memory.exists_cell_of_stored hstored hi
  | out =>
    obtain ⟨hvalid, hi⟩ := State.byteDefined_out_iff.mp hdef
    obtain ⟨_, _, hstored⟩ := h.out hvalid
    exact Memory.exists_cell_of_stored hstored hi

/-- What a read of DATA or OUT returns, under the invariant: the byte stored, or a free one. -/
theorem State.Inv.answers_byteRead {s : State} (h : s.Inv) {sp : Space} (hsp : sp ≠ .reg ∧ sp ≠ .input) {i : Nat}
    (hi : i < s.capacity sp) :
    (s.byteDefined sp i = true → ∃ b, (s.buffer sp).cell i = some b ∧ s.Answers (byteRead sp i) (.byte b)) ∧
    (¬ s.byteDefined sp i = true → s.Answers (byteRead sp i) (.byte (Config.freeByte s.draws i))) := by
  have hread := State.answers_byteRead hsp.1 hi
  refine ⟨fun hdef => ?_, fun hundef => ?_⟩
  · obtain ⟨b, hb⟩ := h.exists_cell_of_byteDefined hsp.2 hdef
    rw [State.readBuffer_of_cell hdef hb] at hread
    exact ⟨b, hb, hread⟩
  · rwa [State.readBuffer_of_undefined hundef] at hread

/-- Settles O44: both spaces read alike, and the invariant says that what is defined has been written. -/
theorem dataAndOutReadsReturn : Obligations.DataAndOutReadsReturn := by
  unfold Obligations.DataAndOutReadsReturn
  intro s i hs
  rw [← State.byteDefined_data_iff, ← State.byteDefined_out_iff]
  exact ⟨fun hi => hs.answers_byteRead (sp := .data) (by decide) hi,
    fun hi => hs.answers_byteRead (sp := .out) (by decide) hi⟩

/-! ### Who changes the chunk and the loaded type (R49, R163) -/

/-- What a transaction other than a CMD write or a RESET may change: IN, the window and TYPE_IN, and the model's own
`response` and `draws`. -/
def State.HostFrame (s t : State) : Prop :=
  t = { s with
    inLen := t.inLen, inOff := t.inOff, typeIn := t.typeIn, input := t.input
    response := t.response, draws := t.draws }

theorem Did.hostFrame {tr : Transaction} {s t : State} (h : Did s tr t) (hcmd : ∀ w, tr ≠ regWrite 0x00 w)
    (hreset : tr ≠ .reset) : s.HostFrame t := by
  cases h with
  | command w => exact absurd rfl (hcmd w)
  | reset => exact absurd rfl hreset
  | readReg | readByte | inLen | inOff | typeIn | readOnly | writeByte => rfl

/-- A part of the block's state that only the commands `writers` write, when they succeed. -/
structure WrittenBy {α : Type} (part : State → α) (writers : List Instr) : Prop where
  settle : ∀ s e, part (s.settle e) = part s
  host : ∀ {s t}, s.HostFrame t → part t = part s
  wrote : ∀ {i s u}, Wrote s i u → i ∉ writers → part u = part s

section Part

variable {α : Type} {part : State → α} {writers : List Instr} (hpart : WrittenBy part writers)
include hpart

theorem WrittenBy.exec_eq {i : Instr} {s t : State} (h : exec i s = .next t) (hi : i ∉ writers) :
    part t = part s := by
  obtain ⟨e, _, rfl⟩ | ⟨u, hu, rfl⟩ := exec_cases h
  · exact hpart.settle s e
  · exact (hpart.settle u .ok).trans (hpart.wrote hu hi)

/-- A transaction after which the part differs is a RESET or a CMD write of one of its writers. -/
theorem WrittenBy.changed {tr : Transaction} {s t : State} (h : transact tr s = .next t) (hne : part t ≠ part s) :
    tr = .reset ∨ ∃ i ∈ writers, tr = regWrite 0x00 (encode i) := by
  by_cases hreset : tr = .reset
  · exact .inl hreset
  by_cases hcmd : ∃ w, tr = regWrite 0x00 w
  · obtain ⟨w, rfl⟩ := hcmd
    rw [transact_cmdWrite] at h
    obtain ⟨i, hdecode, hi⟩ | ⟨_, rfl⟩ := runCommand_cases h
    · have hmem : i ∈ writers := not_not.mp fun hi' => hne (hpart.exec_eq hi hi')
      exact .inr ⟨i, hmem, by rw [eq_encode_of_decode hdecode]⟩
    · exact absurd (hpart.settle s _) hne
  · have hframe := (transact_cases h).hostFrame (not_exists.mp hcmd) hreset
    exact absurd (hpart.host hframe) hne

end Part

/-- The registers and the buffer that hold the current chunk (R43). -/
def State.chunkParts (s : State) : Word × Word × Word × Memory := (s.chType, s.length, s.crc, s.data)

theorem chunkParts_writtenBy : WrittenBy State.chunkParts [.chunkNew, .chunkParse] where
  settle _ _ := rfl
  host h := by rw [h]; rfl
  wrote h hi := by
    cases h with
    | new | parse => simp at hi
    | fromBytes | fromString | fromChunk | serialize | utf8 | crc => rfl

theorem ctype_writtenBy : WrittenBy State.ctype [.ctFromBytes, .ctFromString, .ctFromChunk] where
  settle _ _ := rfl
  host h := by rw [h]
  wrote h hi := by
    cases h with
    | fromBytes | fromString | fromChunk => simp at hi
    | new | parse | serialize | utf8 | crc => rfl

/-- Settles O48: the writers of the chunk and of the type are read off what each command writes. -/
theorem onlyCommandsChangeChunkAndType : Obligations.OnlyCommandsChangeChunkAndType := by
  unfold Obligations.OnlyCommandsChangeChunkAndType
  refine ⟨fun s t tr h hdiffer => ?chunk, fun s t tr h hne => ctype_writtenBy.changed h hne,
    fun s t tr hcmd hreset h => (transact_cases h).hostFrame hcmd hreset⟩
  case chunk =>
    refine chunkParts_writtenBy.changed h fun hsame => ?_
    simp only [State.chunkParts, Prod.mk.injEq] at hsame
    simp [hsame] at hdiffer

end Sys2Proof.Machine

/-! PROOFS. The errors (R170 to R174): a command word that reports one writes nothing but ERR, and each command reports
the codes R172 lists for it, every one of them in some state and no other. -/

namespace Sys2Proof.Machine

/-! ### The error commit (R174) -/

/-- Settles O19: a word runs a command, which writes nothing when it reports an error, or is illegal and reports it by
the error commit. -/
theorem failingCommandWritesOnlyErr : Obligations.FailingCommandWritesOnlyErr := by
  unfold Obligations.FailingCommandWritesOnlyErr
  intro w s t h herr
  obtain ⟨i, _, hi⟩ | ⟨_, rfl⟩ := runCommand_cases h
  · exact exec_error hi herr
  · exact State.settle_eq_failed s .illegalCommand

/-! ### The codes of each command (R172) -/

/-- The codes a command may leave in ERR: success, and the errors it raises. -/
def Instr.codes (i : Instr) : List Byte := 0 :: (Instr.raises i).map ErrorCode.code

theorem exec_err_mem_codes {i : Instr} {s t : State} (h : exec i s = .next t) : t.status.err ∈ Instr.codes i := by
  obtain ⟨e, he, rfl⟩ | ⟨u, _, rfl⟩ := exec_cases h
  · exact List.mem_cons_of_mem _ (List.mem_map_of_mem he)
  · exact List.mem_cons_self

/-! ### States in which the codes arise -/

/-- The block after reset, with `DATA_BYTES = 64`: an empty window, no type and no chunk. -/
def State.blank : State := { State.reset with dataBytes := 64 }

/-- A blank block whose window is reversed. -/
def State.reversed : State := State.blank.setInOff 1

/-- A blank block whose window holds these bytes. -/
def State.receiving (bs : List Byte) : State :=
  State.blank.withWindowAt (Memory.putBytes [] 0 bs) 0 (BitVec.ofNat 32 bs.length)

/-- A block with the type 0 loaded, and a chunk of that type with this payload. -/
def State.holding (d : List Byte) : State := (State.blank.loadType 0).installChunk 0 d (chunkCrc 0 d)

theorem State.receiving_windowSize {bs : List Byte} (h : bs.length ≤ 76) :
    (State.receiving bs).windowSize = bs.length := by
  change (BitVec.ofNat 32 bs.length).toNat - 0 = bs.length
  rw [BitVec.toNat_ofNat]
  omega

theorem State.receiving_windowInRange {bs : List Byte} (h : bs.length ≤ 76) :
    (State.receiving bs).windowInRange = true := by
  have hlen : (State.receiving bs).inLen.toNat = bs.length := State.receiving_windowSize h
  exact State.windowInRange_iff.mpr ⟨hlen.trans_le h, Nat.zero_le _⟩

theorem State.receiving_window {bs : List Byte} (h : bs.length ≤ 76) : (State.receiving bs).window = bs :=
  State.window_eq_of_cells (State.receiving_windowSize h) fun _ hi => Memory.cell_putBytes_of_lt [] bs hi

/-- A blank block whose window holds an empty chunk of the type 0, with this value in the CRC field. -/
def State.receivingFrame (c : Word) : State := State.receiving (frameBytes 0 0 [] c)

theorem State.receivingFrame_windowInRange (c : Word) : (State.receivingFrame c).windowInRange = true :=
  State.receiving_windowInRange (by simp [frameBytes_length])

theorem State.receivingFrame_window (c : Word) :
    (State.receivingFrame c).window = frameBytes (BitVec.ofNat 32 ([] : List Byte).length) 0 [] c ++ [] :=
  (State.receiving_window (by simp [frameBytes_length])).trans (List.append_nil _).symm

/-! ### Each code arises (R172) -/

theorem execChunkSerialize_of_none {s : State} (h : s.status.chunkValid = false) :
    execChunkSerialize s = .next (s.failed 7) :=
  withChunk_of_none h

theorem execChunkUtf8_of_none {s : State} (h : s.status.chunkValid = false) : execChunkUtf8 s = .next (s.failed 7) :=
  withChunk_of_none h

/-- Each error a command raises arises: the rows of R172, code by code. -/
theorem exists_exec_raises {i : Instr} {e : ErrorCode} (he : e ∈ Instr.raises i) :
    ∃ s, exec i s = .next (s.settle e) := by
  cases i <;> simp only [Instr.raises, List.mem_cons, List.not_mem_nil, or_false] at he
  case ctFromString =>
    obtain rfl | rfl := he
    · exact ⟨.reversed, execCtFromString_of_outside rfl⟩
    · exact ⟨.blank, execCtFromString_of_not_fourLetters rfl fun h => absurd h.1 (by decide)⟩
  case ctFromChunk =>
    subst he
    exact ⟨.blank, execCtFromChunk_of_none rfl⟩
  case chunkNew =>
    obtain rfl | rfl := he
    · exact ⟨.reversed, execChunkNew_of_outside rfl⟩
    · exact ⟨.blank, execChunkNew_of_noType rfl rfl⟩
  case chunkParse =>
    obtain rfl | rfl | rfl := he
    · exact ⟨.reversed, execChunkParse_of_outside rfl⟩
    · exact ⟨.blank, execChunkParse_of_short rfl (by decide)⟩
    · have hwrong : bytesBE32 (chunkCrc 0 [] + 1) ≠ bytesBE32 (chunkCrc 0 []) :=
        fun h => absurd (bytesBE32_injective h) (by bv_omega)
      exact ⟨.receivingFrame (chunkCrc 0 [] + 1),
        corruptCrcFieldFails _ 0 [] _ [] (State.windowOk_iff.mpr (State.receivingFrame_windowInRange _))
          (Nat.zero_le _) rfl hwrong (State.receivingFrame_window _)⟩
  case chunkSerialize =>
    subst he
    exact ⟨.blank, execChunkSerialize_of_none rfl⟩
  case chunkUtf8 =>
    obtain rfl | rfl := he
    · exact ⟨.blank, execChunkUtf8_of_none rfl⟩
    · exact ⟨.holding [0xFF], (execChunkUtf8_of_chunk rfl (by decide)).trans (if_neg (by decide))⟩
  case crcCompute =>
    subst he
    exact ⟨.reversed, execCrcCompute_of_outside rfl⟩

/-- Each command succeeds in some state. -/
theorem exists_exec_succeeds (i : Instr) : ∃ s t, exec i s = .next t ∧ t.status.err = 0 := by
  cases i with
  | ctFromBytes => exact ⟨.blank, _, execCtFromBytes_eq _, rfl⟩
  | ctFromString =>
    exact ⟨.receiving [0x52, 0x75, 0x53, 0x74], _,
      execCtFromString_of_fourLetters (State.receiving_windowInRange (by decide))
        (by rw [State.FourLetters, State.receiving_window (by decide)]; decide), rfl⟩
  | ctFromChunk => exact ⟨.holding [], _, execCtFromChunk_of_chunk rfl, rfl⟩
  | chunkNew => exact ⟨.holding [], _, execChunkNew_of_checks rfl rfl (by decide), rfl⟩
  | chunkParse =>
    exact ⟨.receivingFrame (chunkCrc 0 []), _, execChunkParse_of_frame (State.receivingFrame_windowInRange _)
      (Nat.zero_le _) (State.receivingFrame_window _), rfl⟩
  | chunkSerialize => exact ⟨.holding [], _, execChunkSerialize_of_chunk rfl rfl, rfl⟩
  | chunkUtf8 => exact ⟨.holding [], _, (execChunkUtf8_of_chunk rfl (by decide)).trans (if_pos rfl), rfl⟩
  | crcCompute => exact ⟨.blank, _, execCrcCompute_of_inRange rfl, rfl⟩

theorem exists_exec_err {i : Instr} {c : Byte} (hc : c ∈ Instr.codes i) :
    ∃ s t, exec i s = .next t ∧ t.status.err = c := by
  obtain rfl | hc := List.mem_cons.mp hc
  · exact exists_exec_succeeds i
  · obtain ⟨e, he, rfl⟩ := List.mem_map.mp hc
    obtain ⟨s, h⟩ := exists_exec_raises he
    exact ⟨s, _, h, rfl⟩

/-- Settles O20: the statement's table is the list of what each command raises; an illegal word is the error commit. -/
theorem commandsReportTheirErrorsOnly : Obligations.CommandsReportTheirErrorsOnly := by
  unfold Obligations.CommandsReportTheirErrorsOnly
  intro codes
  have hcodes : codes = Instr.codes := by
    funext i
    cases i <;> rfl
  rw [hcodes]
  refine ⟨fun i s t => exec_err_mem_codes, fun i c => exists_exec_err, fun w s t hillegal h => ?_⟩
  rw [runCommand_of_illegal hillegal] at h
  rw [raise_eq_next h]
  rfl

end Sys2Proof.Machine

/-! PROOFS. Reset and hazards (R190 to R200): an idle step changes nothing, and no step lets the host tell apart two
states that agree on all that has a defined value. The argument is a simulation: what the block reads of its state
agrees in states that look alike, its writes keep them alike, and its branches are taken together. -/

namespace Sys2Proof.Machine

/-! ### The idle step (R191) -/

theorem step_of_idle {s : State} (h : s.pending = []) : step s = .next s := by
  simp [step, hostTurn, h]

/-- Settles O7: with nothing to take off `pending`, the step is the state itself. -/
theorem idleStepChangesNothing : Obligations.IdleStepChangesNothing := by
  unfold Obligations.IdleStepChangesNothing
  exact fun _ hidle => step_of_idle hidle

/-! ### Writing the same bytes (R13) -/

/-- The bytes just written to two buffers agree, whatever the buffers held. -/
theorem Memory.cell_putBytes_eq_of_lt (m m' : Memory) {bs : List Byte} {i : Nat} (h : i < bs.length) :
    (m.putBytes 0 bs).cell i = (m'.putBytes 0 bs).cell i := by
  simp [Memory.cell_putBytes, h]

/-- A register that holds a count of bytes holds no more than the count: it may wrap, not grow. -/
theorem lt_of_lt_toNat_ofNat {i n : Nat} (h : i < (BitVec.ofNat 32 n).toNat) : i < n :=
  Nat.lt_of_lt_of_le h ((BitVec.toNat_ofNat n 32).trans_le (Nat.mod_le n _))

theorem presentIf_congr {f g : Bool} {v w : Word} (hflag : f = g) (hv : f = true → v = w) :
    presentIf f v = presentIf g w := by
  subst hflag
  cases f with
  | false => rfl
  | true => exact congrArg some (hv rfl)

/-! ### What is read agrees in states that look alike (R53, R155, R158 to R160) -/

section Reads

variable {s t : State} (h : s.LooksLike t)
include h

theorem State.LooksLike.typeValid : s.status.typeValid = t.status.typeValid := congrArg Status.typeValid h.status

theorem State.LooksLike.chunkValid : s.status.chunkValid = t.status.chunkValid := congrArg Status.chunkValid h.status

theorem State.LooksLike.outValid : s.status.outValid = t.status.outValid := congrArg Status.outValid h.status

theorem State.LooksLike.chType (hv : s.status.chunkValid = true) : s.chType = t.chType := by
  obtain ⟨hType, _⟩ := h.chunk hv
  exact hType

theorem State.LooksLike.length (hv : s.status.chunkValid = true) : s.length = t.length := by
  obtain ⟨_, hlength, _⟩ := h.chunk hv
  exact hlength

theorem State.LooksLike.crc (hv : s.status.chunkValid = true) : s.crc = t.crc := by
  obtain ⟨_, _, hcrc, _⟩ := h.chunk hv
  exact hcrc

theorem State.LooksLike.dataCell (hv : s.status.chunkValid = true) {i : Nat} (hi : i < s.length.toNat) :
    s.data.cell i = t.data.cell i := by
  obtain ⟨_, _, _, hdata⟩ := h.chunk hv
  exact hdata i hi

theorem State.LooksLike.outLen (hv : s.status.outValid = true) : s.outLen = t.outLen := by
  obtain ⟨houtLen, _⟩ := h.out hv
  exact houtLen

theorem State.LooksLike.outCell (hv : s.status.outValid = true) {i : Nat} (hi : i < s.outLen.toNat) :
    s.out.cell i = t.out.cell i := by
  obtain ⟨_, hout⟩ := h.out hv
  exact hout i hi

theorem State.LooksLike.windowInRange : s.windowInRange = t.windowInRange := by
  rw [State.windowInRange, State.windowInRange, State.inBytes, State.inBytes, h.inLen, h.inOff, h.dataBytes]

theorem State.LooksLike.windowSize : s.windowSize = t.windowSize := by
  simp only [State.windowSize, h.inLen, h.inOff]

theorem State.LooksLike.windowBytes (i n : Nat) : s.windowBytes i n = t.windowBytes i n := by
  simp only [State.windowBytes, h.input, h.draws, h.inOff]

theorem State.LooksLike.window : s.window = t.window := by
  simp only [State.window, h.windowSize, h.windowBytes]

theorem State.LooksLike.frameLength : s.frameLength = t.frameLength := by
  simp only [State.frameLength, h.windowBytes]

theorem State.LooksLike.frameType : s.frameType = t.frameType := by
  simp only [State.frameType, h.windowBytes]

theorem State.LooksLike.framePayload : s.framePayload = t.framePayload := by
  simp only [State.framePayload, h.frameLength, h.windowBytes]

theorem State.LooksLike.frameCrc : s.frameCrc = t.frameCrc := by
  simp only [State.frameCrc, h.frameLength, h.windowBytes]

theorem State.LooksLike.frameComputedCrc : s.frameComputedCrc = t.frameComputedCrc := by
  simp only [State.frameComputedCrc, h.framePayload, h.windowBytes]

theorem State.LooksLike.payloadInData (hv : s.status.chunkValid = true) : s.payloadInData = t.payloadInData := by
  simp only [State.payloadInData, h.length hv, h.dataBytes]

/-- The payload is the part of DATA that has a value. -/
theorem State.LooksLike.payload (hv : s.status.chunkValid = true) : s.payload = t.payload := by
  unfold State.payload
  rw [← h.length hv, ← h.draws]
  refine Memory.readBytes_congr fun i hi => ?_
  rw [Nat.zero_add, Memory.readByte, Memory.readByte, h.dataCell hv hi]

/-- A register has a defined value in both states or in neither, and the same one. -/
theorem State.LooksLike.regValue (r : Reg) : s.regValue r = t.regValue r := by
  cases r with
  | cmd => rfl
  | status => exact congrArg (fun st => some st.word) h.status
  | inLen => exact congrArg some h.inLen
  | inOff => exact congrArg some h.inOff
  | typeIn => exact congrArg some h.typeIn
  | ctype => exact presentIf_congr h.typeValid h.ctype
  | props => exact presentIf_congr h.typeValid fun hv => congrArg props (h.ctype hv)
  | chType => exact presentIf_congr h.chunkValid h.chType
  | length => exact presentIf_congr h.chunkValid h.length
  | crc => exact presentIf_congr h.chunkValid h.crc
  | consumed => exact presentIf_congr (congrArg Status.consumedValid h.status) h.consumed
  | outLen => exact presentIf_congr h.outValid h.outLen
  | crcOut => exact presentIf_congr (congrArg Status.crcOutValid h.status) h.crcOut

theorem State.LooksLike.readReg (r : Reg) : s.readReg r = t.readReg r := by
  rw [State.readReg, State.readReg, h.regValue r, h.draws]

/-- A byte has a value for the host in both states or in neither. -/
theorem State.LooksLike.byteDefined (sp : Space) (i : Nat) : s.byteDefined sp i = t.byteDefined sp i := by
  cases sp with
  | reg | input => rfl
  | data =>
    rw [Bool.eq_iff_iff, State.byteDefined_data_iff, State.byteDefined_data_iff, ← h.chunkValid]
    exact and_congr_right fun hv => by rw [h.length hv]
  | out =>
    rw [Bool.eq_iff_iff, State.byteDefined_out_iff, State.byteDefined_out_iff, ← h.outValid]
    exact and_congr_right fun hv => by rw [h.outLen hv]

/-- A byte that has a value for the host is stored alike. -/
theorem State.LooksLike.bufferCell {sp : Space} {i : Nat} (hdef : s.byteDefined sp i = true) :
    (s.buffer sp).cell i = (t.buffer sp).cell i := by
  cases sp with
  | reg => rfl
  | input => exact congrArg (Memory.cell · i) h.input
  | data =>
    obtain ⟨hv, hi⟩ := State.byteDefined_data_iff.mp hdef
    exact h.dataCell hv hi
  | out =>
    obtain ⟨hv, hi⟩ := State.byteDefined_out_iff.mp hdef
    exact h.outCell hv hi

theorem State.LooksLike.readBuffer (sp : Space) (i : Nat) : s.readBuffer sp i = t.readBuffer sp i := by
  rw [State.readBuffer, State.readBuffer, ← h.byteDefined, ← h.draws]
  split
  · rw [Memory.readByte, Memory.readByte, h.bufferCell ‹_›]
  · rfl

theorem State.LooksLike.capacity (sp : Space) : s.capacity sp = t.capacity sp := by
  cases sp with
  | reg => rfl
  | data => exact congrArg Fin.val h.dataBytes
  | input | out => exact congrArg (fun n => n.val + 12) h.dataBytes

end Reads

/-! ### Writes keep states alike -/

section Writes

variable {s t : State} (h : s.LooksLike t)
include h

theorem State.LooksLike.settle (e : ErrorCode) : (s.settle e).LooksLike (t.settle e) :=
  { h with status := by simp [h.status], draws := by simp [h.draws] }

theorem State.LooksLike.loadType {v w : Word} (hv : v = w) : (s.loadType v).LooksLike (t.loadType w) :=
  { h with status := by simp [h.status], ctype := fun _ => hv }

/-- A new chunk has all its parts from the command, and takes what OUT and CONSUMED held out of sight (R28, R30). -/
theorem State.LooksLike.installChunk {v w c c' : Word} {d d' : List Byte} (hv : v = w) (hd : d = d') (hc : c = c') :
    (s.installChunk v d c).LooksLike (t.installChunk w d' c') := by
  subst hv hd hc
  exact { h with
    status := by simp [h.status]
    chunk := fun _ => ⟨rfl, rfl, rfl, fun _ hi => Memory.cell_putBytes_eq_of_lt _ _ (lt_of_lt_toNat_ofNat hi)⟩
    consumed := nofun
    out := nofun }

theorem State.LooksLike.setConsumed {n m : Nat} (hn : n = m) : (s.setConsumed n).LooksLike (t.setConsumed m) :=
  { h with status := by simp [h.status], consumed := fun _ => congrArg (BitVec.ofNat 32) hn }

/-- A serialization brings every byte below the new OUT_LEN with it (R40). -/
theorem State.LooksLike.emit {bs bs' : List Byte} {n m : Nat} (hbs : bs = bs') (hn : n = m) (hle : n ≤ bs.length) :
    (s.emit bs n).LooksLike (t.emit bs' m) := by
  subst hbs hn
  exact { h with
    status := by simp [h.status]
    out := fun _ => ⟨rfl, fun _ hi =>
      Memory.cell_putBytes_eq_of_lt _ _ (Nat.lt_of_lt_of_le (lt_of_lt_toNat_ofNat hi) hle)⟩ }

theorem State.LooksLike.setCrcOut {c c' : Word} (hc : c = c') : (s.setCrcOut c).LooksLike (t.setCrcOut c') :=
  { h with status := by simp [h.status], crcOut := fun _ => hc }

theorem State.LooksLike.setInLen (v : Word) : (s.setInLen v).LooksLike (t.setInLen v) := { h with inLen := rfl }

theorem State.LooksLike.setInOff (v : Word) : (s.setInOff v).LooksLike (t.setInOff v) := { h with inOff := rfl }

theorem State.LooksLike.setTypeIn (v : Word) : (s.setTypeIn v).LooksLike (t.setTypeIn v) := { h with typeIn := rfl }

theorem State.LooksLike.writeInput (i : Nat) (b : Byte) : (s.writeInput i b).LooksLike (t.writeInput i b) :=
  { h with input := congrArg (Memory.put · i b) h.input }

theorem State.LooksLike.answer {r r' : Response} (hr : r = r') : (s.answer r).LooksLike (t.answer r') :=
  { h with response := hr, draws := by simp [h.draws] }

theorem State.LooksLike.take (rest : List Transaction) : (s.take rest).LooksLike (t.take rest) :=
  { h with pending := rfl, response := rfl }

/-- A RESET leaves nothing of the block that could differ (R190). -/
theorem State.LooksLike.restart : s.restart.LooksLike t.restart := by
  have heq : s.restart = t.restart := by simp only [State.restart, h.dataBytes, h.pending, h.draws]
  rw [heq]
  exact ⟨rfl, rfl, rfl, rfl, rfl, rfl, rfl, rfl, rfl, fun _ => rfl, fun _ => ⟨rfl, rfl, rfl, fun _ _ => rfl⟩,
    fun _ => rfl, fun _ => ⟨rfl, fun _ _ => rfl⟩, fun _ => rfl⟩

end Writes

/-! ### Branches are taken together -/

/-- Two branchings on one condition look alike when their branches do. -/
theorem ite_alike {c c' : Prop} [Decidable c] [Decidable c'] {a a' b b' : Outcome} (hc : c ↔ c')
    (hpos : c → OutcomesLookAlike a a') (hneg : ¬ c → OutcomesLookAlike b b') :
    OutcomesLookAlike (if c then a else b) (if c' then a' else b') := by
  by_cases hcase : c
  · rw [if_pos hcase, if_pos (hc.mp hcase)]
    exact hpos hcase
  · rw [if_neg hcase, if_neg (mt hc.mpr hcase)]
    exact hneg hcase

theorem withRegister_alike {off width : Nat} {k k' : Reg → Outcome} (hk : ∀ r, OutcomesLookAlike (k r) (k' r)) :
    OutcomesLookAlike (withRegister off width k) (withRegister off width k') := by
  refine ite_alike Iff.rfl (fun _ => rfl) fun _ => ite_alike Iff.rfl (fun _ => rfl) fun _ => ?mapped
  case mapped =>
    split
    · exact hk _
    · rfl

section Branches

variable {s t : State} (h : s.LooksLike t)
include h

theorem raise_alike (e : ErrorCode) : OutcomesLookAlike (raise e s) (raise e t) := h.settle e

theorem complete_alike : OutcomesLookAlike (complete s) (complete t) := h.settle .ok

theorem withWindow_alike {k k' : Outcome} (hk : OutcomesLookAlike k k') :
    OutcomesLookAlike (withWindow s k) (withWindow t k') :=
  ite_alike (by rw [h.windowInRange]) (fun _ => hk) fun _ => raise_alike h .capacityExceeded

theorem withChunk_alike {k k' : Outcome} (hk : s.status.chunkValid = true → OutcomesLookAlike k k') :
    OutcomesLookAlike (withChunk s k) (withChunk t k') :=
  ite_alike (by rw [h.chunkValid]) hk fun _ => raise_alike h .notLoaded

theorem withPayload_alike (hv : s.status.chunkValid = true) {k k' : List Byte → Outcome}
    (hk : OutcomesLookAlike (k s.payload) (k' s.payload)) : OutcomesLookAlike (withPayload s k) (withPayload t k') :=
  ite_alike (by rw [h.payloadInData hv]) (fun _ => h.payload hv ▸ hk) fun _ => rfl

theorem withBufferByte_alike {sp : Space} {i width : Nat} {k k' : Outcome} (hk : OutcomesLookAlike k k') :
    OutcomesLookAlike (withBufferByte s sp i width k) (withBufferByte t sp i width k') :=
  ite_alike Iff.rfl (fun _ => rfl) fun _ => ite_alike (by rw [h.capacity]) (fun _ => rfl) fun _ => hk

end Branches

/-! ### The commands -/

section Commands

variable {s t : State} (h : s.LooksLike t)
include h

theorem execCtFromBytes_alike : OutcomesLookAlike (execCtFromBytes s) (execCtFromBytes t) :=
  complete_alike (h.loadType h.typeIn)

theorem execCtFromString_alike : OutcomesLookAlike (execCtFromString s) (execCtFromString t) := by
  refine withWindow_alike h (ite_alike ?size (fun _ => raise_alike h _) fun _ =>
    ite_alike ?letters (fun _ => complete_alike (h.loadType ?type)) fun _ => raise_alike h _)
  case size => rw [h.windowSize]
  case letters => rw [h.window]
  case type => rw [h.window]

theorem execCtFromChunk_alike : OutcomesLookAlike (execCtFromChunk s) (execCtFromChunk t) :=
  withChunk_alike h fun hv => complete_alike (h.loadType (h.chType hv))

theorem execChunkNew_alike : OutcomesLookAlike (execChunkNew s) (execChunkNew t) := by
  refine withWindow_alike h (ite_alike ?noType (fun _ => raise_alike h _) fun htype =>
    ite_alike ?overCapacity (fun _ => raise_alike h _) fun _ => complete_alike ?built)
  case noType => rw [h.typeValid]
  case overCapacity => rw [h.dataBytes, h.windowSize]
  case built =>
    have hctype : s.ctype = t.ctype := h.ctype (by simpa using htype)
    exact h.installChunk hctype h.window (by rw [hctype, h.window])

theorem execChunkParse_alike : OutcomesLookAlike (execChunkParse s) (execChunkParse t) := by
  refine withWindow_alike h (ite_alike ?short (fun _ => raise_alike h _) fun _ =>
    ite_alike ?overCapacity (fun _ => raise_alike h _) fun _ =>
    ite_alike ?cut (fun _ => raise_alike h _) fun _ =>
    ite_alike ?mismatch (fun _ => raise_alike h _) fun _ => complete_alike ?parsed)
  case short => rw [h.windowSize]
  case overCapacity => rw [h.dataBytes, h.frameLength]
  case cut => rw [h.windowSize, h.frameLength]
  case mismatch => rw [h.frameComputedCrc, h.frameCrc]
  case parsed =>
    exact (h.installChunk h.frameType h.framePayload h.frameCrc).setConsumed (by rw [h.frameLength])

theorem execChunkSerialize_alike : OutcomesLookAlike (execChunkSerialize s) (execChunkSerialize t) := by
  refine withChunk_alike h fun hv => withPayload_alike h hv (complete_alike (h.emit ?bytes ?length ?whole))
  case bytes => rw [h.length hv, h.chType hv, h.crc hv]
  case length => rw [h.length hv]
  case whole => rw [frameBytes_length, State.payload_length]

theorem execChunkUtf8_alike : OutcomesLookAlike (execChunkUtf8 s) (execChunkUtf8 t) :=
  withChunk_alike h fun hv => withPayload_alike h hv
    (ite_alike Iff.rfl (fun _ => complete_alike h) fun _ => raise_alike h _)

theorem execCrcCompute_alike : OutcomesLookAlike (execCrcCompute s) (execCrcCompute t) :=
  withWindow_alike h (complete_alike (h.setCrcOut (congrArg crc32 h.window)))

theorem exec_alike (i : Instr) : OutcomesLookAlike (exec i s) (exec i t) := by
  cases i with
  | ctFromBytes => exact execCtFromBytes_alike h
  | ctFromString => exact execCtFromString_alike h
  | ctFromChunk => exact execCtFromChunk_alike h
  | chunkNew => exact execChunkNew_alike h
  | chunkParse => exact execChunkParse_alike h
  | chunkSerialize => exact execChunkSerialize_alike h
  | chunkUtf8 => exact execChunkUtf8_alike h
  | crcCompute => exact execCrcCompute_alike h

theorem runCommand_alike (w : Word) : OutcomesLookAlike (runCommand w s) (runCommand w t) := by
  unfold runCommand
  split
  · exact exec_alike h _
  · exact raise_alike h .illegalCommand

end Commands

/-! ### The transactions (R150, R198) -/

section Transactions

variable {s t : State} (h : s.LooksLike t)
include h

theorem writeReg_alike (r : Reg) (v : Word) : OutcomesLookAlike (writeReg r v s) (writeReg r v t) := by
  cases r with
  | cmd => exact runCommand_alike h v
  | inLen => exact h.setInLen v
  | inOff => exact h.setInOff v
  | typeIn => exact h.setTypeIn v
  | status | ctype | props | chType | length | crc | consumed | outLen | crcOut => exact h

theorem readAccess_alike (sp : Space) (off width : Nat) :
    OutcomesLookAlike (readAccess sp off width s) (readAccess sp off width t) := by
  cases sp with
  | reg => exact withRegister_alike fun r => h.answer (congrArg Response.word (h.readReg r))
  | input | data | out =>
    exact withBufferByte_alike h (h.answer (congrArg Response.byte (h.readBuffer _ off)))

theorem writeAccess_alike (sp : Space) (off width : Nat) (v : Word) :
    OutcomesLookAlike (writeAccess sp off width v s) (writeAccess sp off width v t) := by
  cases sp with
  | reg => exact withRegister_alike fun r => writeReg_alike h r v
  | input => exact withBufferByte_alike h (h.writeInput off _)
  | data | out => rfl

theorem transact_alike (tr : Transaction) : OutcomesLookAlike (transact tr s) (transact tr t) := by
  cases tr with
  | read sp off width => exact readAccess_alike h sp off width
  | write sp off width v => exact writeAccess_alike h sp off width v
  | reset => exact h.restart

theorem step_alike : OutcomesLookAlike (step s) (step t) := by
  cases hpending : s.pending with
  | nil =>
    rw [step_of_idle hpending, step_of_idle (h.pending.symm.trans hpending)]
    exact h
  | cons tr rest =>
    rw [step_of_pending hpending, step_of_pending (h.pending.symm.trans hpending)]
    exact transact_alike (h.take rest) tr

end Transactions

/-- Settles O54: both states step by the same transaction, and no transaction tells them apart. -/
theorem unspecifiedStateIsUnobservable : Obligations.UnspecifiedStateIsUnobservable := by
  unfold Obligations.UnspecifiedStateIsUnobservable
  exact fun _ _ hlike => step_alike hlike

end Sys2Proof.Machine
